-- ==== Sys2Proof/Word.lean ====
section
/-! DEFINITION. The word types of the block: every quantity the spec treats as bits (00_scope.md section 5). -/

namespace Sys2Proof

/-- One frame-buffer byte, one colour channel, one compare value. -/
abbrev Byte := BitVec 8

/-- A command word (30_encoding.md R71). -/
abbrev CmdWord := BitVec 48

/-- A response word (30_encoding.md R74). -/
abbrev RespWord := BitVec 28

/-- A packed colour, red in bits 23:16 (30_encoding.md R75). -/
abbrev Packed := BitVec 24

/-- The LED index field (30_encoding.md R71). -/
abbrev LedIndex := BitVec 16

end Sys2Proof
end

