-- ==== Sys2Proof/Config.lean ====
section
/-! DEFINITION. What is fixed for one instance of the block (00_scope.md R7 to R13), the moves of the outside agents, and
the free values: opaque constants without a body, so that no proof can know them. -/

namespace Sys2Proof

/-- What an LED index at or above `N` does (R13): `reject` is the spec's choice (60_exceptions.md R162), `unchecked` the
reference design's behaviour, specified as the alternative (R163). -/
inductive RangePolicy where
  | reject
  | unchecked
  deriving DecidableEq, Repr

/-- The implementation parameters, arguments of the model fixed for the life of one instance (R7 to R11, R13).
`HIGH` and `LOW` are bytes, which is the constraint `HIGH <= 255` of R11; the other constraints are `paramsOK`. -/
structure Params where
  /-- `N`, the LED count (R7). -/
  n : Nat
  /-- `GAP`, the reset-gap length in bit-cells (R8). -/
  gap : Nat
  /-- `PERIOD`, the bit-cell period in ticks (R10). -/
  period : Nat
  /-- `HIGH`, the byte of the high timing class (R10). -/
  high : Byte
  /-- `LOW`, the byte of the low timing class (R10). -/
  low : Byte
  /-- `RANGE_POLICY` (R13). -/
  rangePolicy : RangePolicy
  deriving DecidableEq, Repr

/-- Whose step comes next. `block` is the encoder or the driver, which never act at the same time (60_exceptions.md R174);
`tick` is one step of the streamer (42_waveform.md R131); `host` and `reset` are the outside moves of
70_reset_and_hazards.md R198. -/
inductive Move where
  | host
  | block
  | tick
  | reset
  deriving DecidableEq, Repr, Inhabited

/-- Free value: the unspecified byte that the LED region holds at address `a` from reset number `k` on
(10_state.md R25, D17, U7). Log entry 3. -/
opaque Config.resetByte (k a : Nat) : Byte

/-- Free value: the move taken when the state lists no further move, the `k`-th such (41_transmit.md R122, D12, U13).
Log entry 4. -/
opaque Config.freeMove (k : Nat) : Move

/-- Free value: whether the `k`-th write that the encoder makes at or above `L` stops the machine. Such a write, made under
`unchecked` only, is "a fault with no defined effect, never a no-op" (60_exceptions.md R163, U1), after which 95_test_vectors.md
V17 has a following SHOW: its effect is open, and so is whether the machine goes on. Log entry 10. -/
opaque Config.outsideWriteStops (k : Nat) : Bool

/-- `F_TICK`, ticks in one second, open (R13). No step depends on it. Log entry 13. -/
opaque Config.fTickHz : Nat

/-- `FB_BASE`, the platform address of byte 0 of the frame buffer, open (R13). No step depends on it. Log entry 13. -/
opaque Config.fbBase : Nat

/-- `T_RESET_MIN` in nanoseconds, open (R13). No step depends on it. Log entry 13. -/
opaque Config.tResetMinNs : Nat

/-- The instance that `State.reset` stands for: the test configuration TC3 of 95_test_vectors.md, the source's own example
with three LEDs. DESIGN CHOICE: the spec leaves every parameter open; log entry 1. -/
def Config.resetParams : Params :=
  { n := 3, gap := 2, period := 10, high := 0x06#8, low := 0x03#8, rangePolicy := .reject }

end Sys2Proof
end

