-- ==== Sys2Proof/Machine/State.lean ====
section
/-! DEFINITION. The state of the block (10_state.md R20) as plain data, why a step can stop, and the state after reset. -/

namespace Sys2Proof.Machine

/-- Which of the five arming writes the driver makes next (41_transmit.md R108). -/
inductive ArmWrite where
  | resetCounter
  | setSource
  | setLength
  | enableDma
  | enableTimer
  deriving DecidableEq, Repr

/-- What the driver does next in `Draining`: poll (41_transmit.md R113), or one of the three completion writes, or the
return to `Idle` (R114). -/
inductive DrainWrite where
  | poll
  | disableDma
  | disableTimer
  | clearDone
  | returnToIdle
  deriving DecidableEq, Repr

/-- `TX_STATE`, the driver's sequencer (10_state.md R28), with the driver's position inside `Arming` and inside `Draining`
(DEDUCED, log entry 7). The four values of the spec are `TxState.phase`. -/
inductive TxState where
  | idle
  | arming (next : ArmWrite)
  | transmitting
  | draining (next : DrainWrite)
  deriving DecidableEq, Repr

/-- The two faults a command can raise (60_exceptions.md R160). They do not stop the machine (R167). -/
inductive CommandFault where
  | illegalCommand
  | rangeError
  deriving DecidableEq, Repr

/-- Why the machine stops. -/
inductive Fault where
  /-- Raised by a byte write at or above `L`, which only SET_COLOR and SET_COLOR_PACKED under `RANGE_POLICY = unchecked` can
  make, where the free value `Config.outsideWriteStops` says that this write stops the machine: "a fault with no defined
  effect, never a no-op" (60_exceptions.md R163, U1; log entry 10). Safe: nothing is known of that value. -/
  | writeOutsideBuffer
  /-- Raised by a DMA beat whose source index is at or above `L`. No rule makes one (20_memory.md R59), and no state that
  meets `BlockOK` does. Safe: the model stops. -/
  | readOutsideBuffer
  deriving DecidableEq, Repr

/-- Why a step is refused. -/
inductive Refusal where
  /-- An instruction whose arm of `exec` has no meaning yet; no arm is such. Safe. -/
  | notModelled (mnemonic : String)
  /-- Raised by `step` when the parameters are outside R7, R8 and R11: "sets outside the constraints are refused"
  (93_implementation_defined.md U11, D4 to D6). Safe. -/
  | badParameters
  deriving DecidableEq, Repr

/-- The state. Fields up to `responses` are the spec's; the rest are the model's own (INVENTORY.md, State). -/
structure State where
  /-- The parameters of this instance; no step changes them (10_state.md R27, log entry 1). -/
  cfg : Params
  /-- `FB` (R21): the bytes written since reset, by rising address; see Machine/Memory.lean. -/
  mem : List Host.Cell
  /-- `TX_STATE` (R28). -/
  txState : TxState
  /-- `TIM_EN` (R29). -/
  timEn : Bool
  /-- `CNT` (R30). -/
  cnt : Nat
  /-- `CCR` (R31). -/
  ccr : Byte
  /-- `DMA_EN` (R32). -/
  dmaEn : Bool
  /-- `DMA_PTR` (R33). -/
  dmaPtr : Nat
  /-- `DMA_CNT` (R34). -/
  dmaCnt : Nat
  /-- `DONE` (R36). -/
  done : Bool
  /-- `DOUT` (R37): `true` is the high level. -/
  dout : Bool
  /-- `ERR` (R38): bit 0 ILLEGAL, bit 1 RANGE. -/
  err : BitVec 2
  /-- The number of the last show accepted, from 1 since reset; 0 before the first (R40). -/
  showNo : Nat
  /-- `STREAM` (R40): the bytes copied to `CCR`, oldest first, each with the number of its show. -/
  stream : List (Nat × Byte)
  /-- `LINE` (R40): the levels of `DOUT`, one per tick while the timer ran, oldest first, each with the number of its show. -/
  line : List (Nat × Bool)
  /-- The command word that waits at the port (30_encoding.md R73). -/
  held : Option CmdWord
  /-- The responses given since reset, oldest first (30_encoding.md R74, log entry 8). -/
  responses : List RespWord
  /-- The words the host has still to present, in order (70_reset_and_hazards.md R197, log entry 5). -/
  program : List CmdWord
  /-- The number of resets since power-on; selects the unspecified bytes of `FB` (R25, log entry 3). -/
  resets : Nat
  /-- The moves to come, in order; after them the moves are free (log entry 4). -/
  sched : List Move
  /-- How many free moves have been taken (log entry 4). -/
  moveNo : Nat
  /-- The writes that the encoder has made at or above `L`, oldest first: each is a fault whose effect is open and which stands
  here for ever, since what it met is the platform's and not the block's (60_exceptions.md R163, log entry 10). -/
  outside : List Host.Cell
  deriving DecidableEq, Repr

/-- The state that a reset leaves (10_state.md section 9, 70_reset_and_hazards.md R180) in an instance with parameters `p`,
with the model's own fields as given. -/
def State.resetWith (p : Params) (resets : Nat) (program : List CmdWord) (sched : List Move) (moveNo : Nat)
    (outside : List Host.Cell) : State :=
  { cfg := p
    mem := []
    txState := .idle
    timEn := false
    cnt := 0
    ccr := 0x00#8
    dmaEn := false
    dmaPtr := 0
    dmaCnt := 0
    done := false
    dout := false
    err := 0#2
    showNo := 0
    stream := []
    line := []
    held := none
    responses := []
    program := program
    resets := resets
    sched := sched
    moveNo := moveNo
    outside := outside }

/-- The machine right after power-on, which is a reset (U18): the reset state of the instance `Config.resetParams`, with no
word yet presented by a host. -/
def State.reset : State := State.resetWith Config.resetParams 0 [] [] 0 []

end Sys2Proof.Machine
end

