-- ==== Sys2Proof/Machine/Flags.lean ====
section
/-! DEFINITION. The flags of the block: the fault flags, the status codes, and the derived signals (10_state.md R36 to R39,
30_encoding.md R74, 41_transmit.md R111). -/

namespace Sys2Proof.Machine

/-- The four values of `TX_STATE` (10_state.md R28). -/
inductive TxPhase where
  | idle
  | arming
  | transmitting
  | draining
  deriving DecidableEq, Repr

/-- `TX_STATE` as one of the spec's four values. -/
def TxState.phase : TxState → TxPhase
  | .idle => .idle
  | .arming _ => .arming
  | .transmitting => .transmitting
  | .draining _ => .draining

/-- `BUSY`, derived (10_state.md R39). -/
def State.busy (s : State) : Bool := decide (s.txState ≠ .idle)

/-- `STREAMING`, derived (41_transmit.md R111). -/
def State.streaming (s : State) : Bool := s.timEn && s.dmaEn && decide (0 < s.dmaCnt)

/-- The sticky flag of a fault: `ERR[0]` ILLEGAL, `ERR[1]` RANGE (10_state.md R38). -/
def CommandFault.flag : CommandFault → BitVec 2
  | .illegalCommand => 0b01#2
  | .rangeError => 0b10#2

/-- The code of a fault (60_exceptions.md R160). -/
def CommandFault.code : CommandFault → BitVec 4
  | .illegalCommand => 0x1#4
  | .rangeError => 0x2#4

/-- The status `OK` (30_encoding.md R74). -/
def statusOk : BitVec 4 := 0x0#4

/-- A response word: `status` in bits 27:24, `result` in bits 23:0 (30_encoding.md R74). -/
def responseWord (status : BitVec 4) (result : Packed) : RespWord := status ++ result

end Sys2Proof.Machine
end

