-- ==== Sys2Proof/Syntax.lean ====
section
/-! DEFINITION. The five operations of the block (30_encoding.md R72, R84) and the fields of a command word (R71). -/

namespace Sys2Proof

/-- The operations, one constructor per row of opcode_table.json, operands in the source's order (R84). The widths of the
types are the operand ranges of R84. -/
inductive Instr where
  /-- `SET_COLOR index, r, g, b`. -/
  | setColor (index : LedIndex) (r g b : Byte)
  /-- `SET_COLOR_PACKED index, packed_rgb`. -/
  | setColorPacked (index : LedIndex) (packed : Packed)
  /-- `CLEAR`. -/
  | clear
  /-- `PACK r, g, b`. -/
  | pack (r g b : Byte)
  /-- `SHOW`. -/
  | showFrame
  deriving DecidableEq, Repr

/-- The four fields of a command word (R71). -/
structure Fields where
  op : BitVec 4
  rsv : BitVec 4
  index : LedIndex
  data : Packed
  deriving DecidableEq, Repr

/-- The operation codes that name an operation (R72). -/
inductive Opcode where
  | setColor
  | setColorPacked
  | clear
  | pack
  | showFrame
  deriving DecidableEq, Repr

end Sys2Proof
end

