-- ==== Sys2Proof/WellFormed.lean ====
section
/-! DEFINITION. Which command words are legal (30_encoding.md R81), with a name for each way a word is not. -/

namespace Sys2Proof

/-- The ways of R81 in which a word is none of the five operations. Each raises `IllegalCommand`. -/
inductive IllegalWord where
  /-- `op` is `0x0` or `0x6` to `0xF`. -/
  | reservedOp
  /-- `rsv` is not 0. -/
  | reservedField
  /-- `index` is not 0 in an operation that takes no index. -/
  | indexNotZero
  /-- `data` is not 0 in an operation that takes no payload. -/
  | dataNotZero
  deriving DecidableEq, Repr

/-- The operation that a code names (R72), if it names one. -/
def Opcode.ofBits (op : BitVec 4) : Option Opcode :=
  match op.toNat with
  | 1 => some .setColor
  | 2 => some .setColorPacked
  | 3 => some .clear
  | 4 => some .pack
  | 5 => some .showFrame
  | _ => none

/-- Whether the operation has an LED index (R72). -/
def Opcode.takesIndex : Opcode → Bool
  | .setColor => true
  | .setColorPacked => true
  | .clear => false
  | .pack => false
  | .showFrame => false

/-- Whether the operation has a payload (R72). -/
def Opcode.takesData : Opcode → Bool
  | .setColor => true
  | .setColorPacked => true
  | .clear => false
  | .pack => true
  | .showFrame => false

/-- The legality check of R81: the operation of a legal word, or the first reason why it is none. -/
def Fields.check (f : Fields) : Except IllegalWord Opcode :=
  match Opcode.ofBits f.op with
  | none => .error .reservedOp
  | some op =>
    if f.rsv ≠ 0 then .error .reservedField
    else if op.takesIndex = false ∧ f.index ≠ 0 then .error .indexNotZero
    else if op.takesData = false ∧ f.data ≠ 0 then .error .dataNotZero
    else .ok op

/-- The fields are those of a legal word. -/
def Fields.wellFormed (f : Fields) : Bool :=
  match f.check with
  | .ok _ => true
  | .error _ => false

end Sys2Proof
end

