-- ==== Sys2Proof/Decode.lean ====
section
/-! DEFINITION. Decoding and encoding of command words (30_encoding.md R71, R72, R81) and the two views of a colour payload
(R75, R76). -/

namespace Sys2Proof

/-! ## The packed colour -/

/-- `pack(r, g, b)` is `r ++ g ++ b` (R75). -/
def packColour (r g b : Byte) : Packed := r ++ g ++ b

/-- Red of a packed colour, bits 23:16 (R76). -/
def redOf (p : Packed) : Byte := p.extractLsb' 16 8

/-- Green of a packed colour, bits 15:8 (R76). -/
def greenOf (p : Packed) : Byte := p.extractLsb' 8 8

/-- Blue of a packed colour, bits 7:0 (R76). -/
def blueOf (p : Packed) : Byte := p.extractLsb' 0 8

/-- `unpack(p)`, the triple red, green, blue (R76). -/
def unpackColour (p : Packed) : Byte × Byte × Byte := (redOf p, greenOf p, blueOf p)

/-! ## Decoding -/

/-- The fields of a command word (R71). -/
def fieldsOf (w : CmdWord) : Fields :=
  { op := w.extractLsb' 44 4
    rsv := w.extractLsb' 40 4
    index := w.extractLsb' 24 16
    data := w.extractLsb' 0 24 }

/-- The operation with the operands that the fields carry (R72). -/
def instrOf (op : Opcode) (f : Fields) : Instr :=
  match op with
  | .setColor => .setColor f.index (redOf f.data) (greenOf f.data) (blueOf f.data)
  | .setColorPacked => .setColorPacked f.index f.data
  | .clear => .clear
  | .pack => .pack (redOf f.data) (greenOf f.data) (blueOf f.data)
  | .showFrame => .showFrame

/-- Every 48-bit word is one of the five operations or illegal, for a named reason (R81). -/
def decode (w : CmdWord) : Except IllegalWord Instr :=
  match (fieldsOf w).check with
  | .ok op => .ok (instrOf op (fieldsOf w))
  | .error e => .error e

/-- A command word carried over a byte-wide path: six bytes, the most significant first (20_memory.md R57). -/
def wordOfBytes : List Byte → Option CmdWord
  | [b5, b4, b3, b2, b1, b0] => some (b5 ++ b4 ++ b3 ++ b2 ++ b1 ++ b0)
  | _ => none

/-- The instruction that the decoder reads from a word whose bits are `w`, numbered as opcode_table.json numbers them: the
command word is presented whole as one 48-bit value (R57, R71), so bit 0 of the table is bit 0 of the word; bits at or above
`nbits` are 0. -/
def decodeTableWord (nbits w : Nat) : Option Instr :=
  if nbits ≤ 48 then
    match decode (BitVec.ofNat 48 (w % 2 ^ nbits)) with
    | .ok i => some i
    | .error _ => none
  else none

/-! ## Encoding -/

/-- The operation code of an instruction (R72). -/
def opcodeBits : Instr → BitVec 4
  | .setColor _ _ _ _ => 0x1#4
  | .setColorPacked _ _ => 0x2#4
  | .clear => 0x3#4
  | .pack _ _ _ => 0x4#4
  | .showFrame => 0x5#4

/-- The fields of an instruction's word; fields it does not use are 0 (R71, R72). -/
def fieldsOfInstr (i : Instr) : Fields :=
  match i with
  | .setColor index r g b => { op := opcodeBits i, rsv := 0, index := index, data := packColour r g b }
  | .setColorPacked index p => { op := opcodeBits i, rsv := 0, index := index, data := p }
  | .clear => { op := opcodeBits i, rsv := 0, index := 0, data := 0 }
  | .pack r g b => { op := opcodeBits i, rsv := 0, index := 0, data := packColour r g b }
  | .showFrame => { op := opcodeBits i, rsv := 0, index := 0, data := 0 }

/-- The word of four fields (R71). -/
def wordOfFields (f : Fields) : CmdWord := f.op ++ f.rsv ++ f.index ++ f.data

/-- The command word of an instruction (R72). -/
def encode (i : Instr) : CmdWord := wordOfFields (fieldsOfInstr i)

/-- The bytes of a command word on a byte-wide path, the most significant first (20_memory.md R57). -/
def bytesOfWord (w : CmdWord) : List Byte :=
  [w.extractLsb' 40 8, w.extractLsb' 32 8, w.extractLsb' 24 8, w.extractLsb' 16 8, w.extractLsb' 8 8, w.extractLsb' 0 8]

/-- An instruction is well-formed when the fields of its word are legal (R81). The operand ranges of R84 hold by the widths
of its fields. -/
def Instr.wellFormed (i : Instr) : Bool := (fieldsOfInstr i).wellFormed

end Sys2Proof
end

