-- ==== Sys2Proof/Machine/Memory.lean ====
section
/-! DEFINITION. The frame buffer as a list of cells in one canonical form (20_memory.md R50, R51, 10_state.md R21, R25). -/

namespace Sys2Proof.Machine

/-- The end of the LED region, `N * 24` (20_memory.md R51, 00_scope.md R14). -/
def ledEnd (p : Params) : Nat := p.n * 24

/-- `L = N * 24 + GAP`, the length of the frame buffer (00_scope.md R9). -/
def bufLen (p : Params) : Nat := ledEnd p + p.gap

/-- What an unlisted address reads as (10_state.md R25): in the LED region no value of the spec's (`none`: a read of it gives
a free value, see `State.readByte`), and `0x00`, the byte `ZERO` of 00_scope.md R12, from the gap region on. -/
def Memory.unlisted (p : Params) (a : Nat) : Option Byte :=
  if a < ledEnd p then none else some 0x00#8

/-- The byte listed at an address. -/
def Memory.lookup : List Host.Cell → Nat → Option Byte
  | [], _ => none
  | c :: m, a => if c.1 = a then some c.2 else Memory.lookup m a

/-- List a byte at an address, in the place that keeps the addresses rising. -/
def Memory.insert : List Host.Cell → Nat → Byte → List Host.Cell
  | [], a, v => [(a, v)]
  | c :: m, a, v =>
    if a < c.1 then (a, v) :: c :: m
    else if a = c.1 then (a, v) :: m
    else c :: Memory.insert m a v

/-- Unlist an address. -/
def Memory.erase (m : List Host.Cell) (a : Nat) : List Host.Cell :=
  m.filter fun c => c.1 ≠ a

/-- Store one byte: the value that an unlisted address reads as is not listed. -/
def Memory.store (p : Params) (m : List Host.Cell) (c : Host.Cell) : List Host.Cell :=
  if Memory.unlisted p c.1 = some c.2 then Memory.erase m c.1 else Memory.insert m c.1 c.2

/-- Store bytes in order. -/
def Memory.storeAll (p : Params) (m : List Host.Cell) (cs : List Host.Cell) : List Host.Cell :=
  cs.foldl (Memory.store p) m

/-- The canonical form: addresses strictly rising, every address in the buffer, no entry equal to what an unlisted address
reads as. -/
abbrev Memory.wf (p : Params) (m : List Host.Cell) : Prop :=
  m.Pairwise (fun c d => c.1 < d.1) ∧ ∀ c ∈ m, c.1 < bufLen p ∧ Memory.unlisted p c.1 ≠ some c.2

end Sys2Proof.Machine
end

