-- ==== Sys2Proof/Machine/Operands.lean ====
section
/-! DEFINITION. Operand assembly of the encoder (30_encoding.md R77 to R79, R87, 20_memory.md R52, 40_encoder.md R91). -/

namespace Sys2Proof.Machine

/-- `slot(i, c, k)`: the address of bit `k` of channel position `c` (0 green, 1 red, 2 blue) of LED `i` (20_memory.md R52). -/
def slot (i c k : Nat) : Nat := i * 24 + c * 8 + (7 - k)

/-- `tc(bit)`, the timing-class byte of one colour bit (30_encoding.md R78). -/
def timingClass (p : Params) (bit : Bool) : Byte := if bit then p.high else p.low

/-- `dec(byte)`, the inverse of `tc`; no other byte is a colour bit (30_encoding.md R79). -/
def decodeClass (p : Params) (v : Byte) : Option Bool :=
  if v = p.high then some true else if v = p.low then some false else none

/-- The value of channel position `c`: 0 green, 1 red, 2 blue (20_memory.md R52). -/
def channelAt (r g b : Byte) (c : Nat) : Byte := if c = 0 then g else if c = 1 then r else b

/-- The eight writes of one channel, most significant bit first (40_encoder.md R91). -/
def channelCells (p : Params) (i c : Nat) (v : Byte) : List Host.Cell :=
  [7, 6, 5, 4, 3, 2, 1, 0].map fun k => (slot i c k, timingClass p (v.getLsbD k))

/-- The 24 writes of `write_slice(i, r, g, b)`: green, red, blue (40_encoder.md R91). -/
def sliceCells (p : Params) (i : Nat) (r g b : Byte) : List Host.Cell :=
  channelCells p i 0 g ++ channelCells p i 1 r ++ channelCells p i 2 b

/-- The writes of `CLEAR`: `write_slice(i, 0, 0, 0)` for every LED in order (40_encoder.md R94). -/
def clearCells (p : Params) : List Host.Cell :=
  (List.range p.n).flatMap fun i => sliceCells p i 0 0 0

/-- The index check of SET_COLOR: `index < N` as unsigned numbers (30_encoding.md R87). -/
def indexInRange (p : Params) (index : LedIndex) : Bool := decide (index.toNat < p.n)

end Sys2Proof.Machine
end

