-- ==== Sys2Proof/Machine/Ops.lean ====
section
/-! DEFINITION. The named operations on the state: buffer reads and writes, responses, taking a command fault, reset, and the
choice of the next move. -/

namespace Sys2Proof.Machine

/-- The result of a step of the model. -/
abbrev Result := Host.Outcome State Fault Refusal

/-- Go on from a next state; a stop stays. -/
def andThen (o : Result) (f : State → Result) : Result :=
  match o with
  | .next s => f s
  | .fault r => .fault r
  | .refused r => .refused r

/-- `ParamsOK`: the constraints of 00_scope.md R7, R8 and R11 (70_reset_and_hazards.md R199). -/
def paramsOK (p : Params) : Bool :=
  decide (p.n ≤ 65535) && decide (1 ≤ p.gap) && decide (0 < p.low.toNat) && decide (p.low.toNat < p.high.toNat)
    && decide (p.high.toNat < p.period)

/-! ## The frame buffer -/

/-- The byte that `FB` holds at an address: the listed byte, or what an unlisted address reads as, where a byte the spec
leaves unspecified is the free value of this reset (10_state.md R25). -/
def State.readByte (s : State) (a : Nat) : Byte :=
  match Memory.lookup s.mem a with
  | some v => v
  | none =>
    match Memory.unlisted s.cfg a with
    | some v => v
    | none => Config.resetByte s.resets a

/-- `MemRead(a, 1)`: there is a byte only below `L` (00_scope.md section 5). -/
def State.memRead (s : State) (a : Nat) : Option Byte :=
  if a < bufLen s.cfg then some (s.readByte a) else none

/-- The state with other buffer contents. -/
def State.withMem (s : State) (m : List Host.Cell) : State := { s with mem := m }

/-- A write at or above `L`, a fault with no defined effect (60_exceptions.md R163): it stops the machine or not, which is a
free value, and where the machine goes on the write stays recorded. No byte of the buffer changes. -/
def State.writeOutside (s : State) (c : Host.Cell) : Result :=
  if Config.outsideWriteStops s.outside.length then .fault .writeOutsideBuffer
  else .next { s with outside := s.outside ++ [c] }

/-- `MemWrite(a, 1, v)` (00_scope.md section 5), and what it does where there is no byte `a` (60_exceptions.md R163). -/
def State.writeCell (s : State) (c : Host.Cell) : Result :=
  if c.1 < bufLen s.cfg then .next (s.withMem (Memory.store s.cfg s.mem c)) else s.writeOutside c

/-- `MemWrite` of each byte, in order. -/
def State.writeCells (s : State) : List Host.Cell → Result
  | [] => .next s
  | c :: cs => andThen (s.writeCell c) fun t => t.writeCells cs

/-- The writes that lie in the buffer. -/
def cellsInside (p : Params) (cs : List Host.Cell) : List Host.Cell := cs.filter fun c => decide (c.1 < bufLen p)

/-- The writes that lie at or above `L`. -/
def cellsOutside (p : Params) (cs : List Host.Cell) : List Host.Cell := cs.filter fun c => decide (bufLen p ≤ c.1)

/-- The state in which all writes have been made and none has stopped the machine. -/
def State.afterWrites (s : State) (cs : List Host.Cell) : State :=
  { s with
    mem := Memory.storeAll s.cfg s.mem (cellsInside s.cfg cs)
    outside := s.outside ++ cellsOutside s.cfg cs }

/-- Whether one of the next `n` writes at or above `L` stops the machine. -/
def State.stopsWithin (s : State) (n : Nat) : Bool :=
  (List.range n).any fun j => Config.outsideWriteStops (s.outside.length + j)

/-- The bytes of the buffer in order, `FB[0]` to `FB[L-1]`. -/
def State.frame (s : State) : List Byte := (List.range (bufLen s.cfg)).map s.readByte

/-- The DMA channel's source address on the platform's bus, `FB_BASE + DMA_PTR` (20_memory.md R65). -/
def State.dmaSource (s : State) : Nat := Config.fbBase + s.dmaPtr

/-! ## The command port -/

/-- `respond(status, result)` (30_encoding.md R74). -/
def State.respond (s : State) (status : BitVec 4) (result : Packed) : State :=
  { s with responses := s.responses ++ [responseWord status result] }

/-- Fault entry, `raise F(info)` (60_exceptions.md R166): the sticky flag is set and the response carries the code with
result 0; nothing else changes, and there is nothing to return from (R167). -/
def State.raise (s : State) (f : CommandFault) : State :=
  { s with err := s.err ||| f.flag }.respond f.code 0

/-- The held word leaves the port when it is accepted (30_encoding.md R73). -/
def State.takeHeld (s : State) : State := { s with held := none }

/-- The host's move: it presents its next word if no word waits at the port; otherwise it waits (70_reset_and_hazards.md
R197, R198). -/
def State.present (s : State) : State :=
  match s.held, s.program with
  | none, w :: ws => { s with held := some w, program := ws }
  | _, _ => s

/-! ## Reset and the order of moves -/

/-- The reset event (70_reset_and_hazards.md R180): every piece of the block's state at its reset value, the LED region
unspecified anew, any command in progress or held discarded without a response. What lies outside the block stays. -/
def State.resetBlock (s : State) : State :=
  State.resetWith s.cfg (s.resets + 1) s.program s.sched s.moveNo s.outside

/-- The next move: the first listed, else a free one (41_transmit.md R122). -/
def State.nextMove (s : State) : Move :=
  match s.sched with
  | m :: _ => m
  | [] => Config.freeMove s.moveNo

/-- The state once its next move has been chosen. -/
def State.advance (s : State) : State :=
  match s.sched with
  | _ :: ms => { s with sched := ms }
  | [] => { s with moveNo := s.moveNo + 1 }

end Sys2Proof.Machine
end

