-- ==== Sys2Proof/Machine/Encoder.lean ====
section
/-! DEFINITION. The Frame Buffer Encoder operations (40_encoder.md). Each is the effect of an accepted command; the port
accepts one only in `Idle` (R90, 30_encoding.md R73, Machine/Sequencer.lean). -/

namespace Sys2Proof.Machine

/-- The effect shared by SET_COLOR and SET_COLOR_PACKED (40_encoder.md R92, R93). An index at or above `N` raises
`RangeError` under `reject` (60_exceptions.md R162); under `unchecked` the 24 writes are made all the same, each in the buffer
or outside it, and no flag is set (R163). -/
def setColourAt (index : LedIndex) (r g b : Byte) (s : State) : Result :=
  if indexInRange s.cfg index || decide (s.cfg.rangePolicy = .unchecked) then
    andThen (s.writeCells (sliceCells s.cfg index.toNat r g b)) fun t => .next (t.respond statusOk 0)
  else .next (s.raise .rangeError)

/-- SET_COLOR (40_encoder.md R92). -/
def execSetColor (index : LedIndex) (r g b : Byte) (s : State) : Result :=
  setColourAt index r g b s

/-- SET_COLOR_PACKED (40_encoder.md R93): unpack and delegate. -/
def execSetColorPacked (index : LedIndex) (packed : Packed) (s : State) : Result :=
  setColourAt index (redOf packed) (greenOf packed) (blueOf packed) s

/-- CLEAR (40_encoder.md R94). -/
def execClear (s : State) : Result :=
  andThen (s.writeCells (clearCells s.cfg)) fun t => .next (t.respond statusOk 0)

/-- PACK (40_encoder.md R95): the result is in the response; no state of the block changes. -/
def execPack (r g b : Byte) (s : State) : Result :=
  .next (s.respond statusOk (packColour r g b))

end Sys2Proof.Machine
end

