-- ==== Sys2Proof/Machine/Transmit.lean ====
section
/-! DEFINITION. SHOW and the steps of the driver (41_transmit.md R105 to R114). -/

namespace Sys2Proof.Machine

/-- What the acceptance of a SHOW writes (41_transmit.md R105, R106): `TX_STATE <- Arming`. The show gets the next number
(10_state.md R40). -/
def State.beginShow (s : State) : State := { s with txState := .arming .resetCounter, showNo := s.showNo + 1 }

/-- SHOW (41_transmit.md R105). Accepting it starts the driver; the rest of the operation is the driver's steps below, each
one move, with any number of ticks between two of them (R122). Its answer is given by `driverReturn` (log entry 6). -/
def execShow (s : State) : Result := .next s.beginShow

/-- `arm()`: one of the five writes, in the order of 41_transmit.md R108. -/
def armStep (w : ArmWrite) (s : State) : State :=
  match w with
  | .resetCounter => { s with cnt := 0, txState := .arming .setSource }
  | .setSource => { s with dmaPtr := 0, txState := .arming .setLength }
  | .setLength => { s with dmaCnt := bufLen s.cfg, txState := .arming .enableDma }
  | .enableDma => { s with dmaEn := true, txState := .arming .enableTimer }
  | .enableTimer => { s with timEn := true, txState := .transmitting }

/-- The step from `Transmitting` to `Draining` (41_transmit.md R113). -/
def startDraining (s : State) : State := { s with txState := .draining .poll }

/-- One poll of `DONE` (41_transmit.md R113): poll again, or go to completion. -/
def pollStep (s : State) : State :=
  if s.done then { s with txState := .draining .disableDma } else s

/-- The last completion step: `TX_STATE <- Idle` and the SHOW is answered (41_transmit.md R114). -/
def driverReturn (s : State) : State := { s with txState := .idle }.respond statusOk 0

/-- One step in `Draining`: a poll, or one of the writes of `complete()` in the order of 41_transmit.md R114. -/
def drainStep (w : DrainWrite) (s : State) : State :=
  match w with
  | .poll => pollStep s
  | .disableDma => { s with dmaEn := false, txState := .draining .disableTimer }
  | .disableTimer => { s with timEn := false, dout := false, txState := .draining .clearDone }
  | .clearDone => { s with done := false, txState := .draining .returnToIdle }
  | .returnToIdle => driverReturn s

end Sys2Proof.Machine
end

