-- ==== Sys2Proof/Machine/Waveform.lean ====
section
/-! DEFINITION. The streamer: DMA beat, completion flag and timer tick (41_transmit.md R110, R112, 42_waveform.md R131,
R132). -/

namespace Sys2Proof.Machine

/-- `wave(v, c)`: the level at counter value `c` of a cell with compare value `v` (42_waveform.md R132). -/
def wave (v : Byte) (c : Nat) : Bool := decide (c < v.toNat)

/-- What a beat that read the byte `v` writes (41_transmit.md R110). -/
def State.copyByte (s : State) (v : Byte) : State :=
  { s with
    ccr := v
    dmaPtr := s.dmaPtr + 1
    dmaCnt := s.dmaCnt - 1
    stream := s.stream ++ [(s.showNo, v)] }

/-- The DMA beat (41_transmit.md R110). -/
def beat (s : State) : Result :=
  match s.memRead s.dmaPtr with
  | some v => .next (s.copyByte v)
  | none => .fault .readOutsideBuffer

/-- The completion flag rises (41_transmit.md R112). -/
def State.raiseDone (s : State) : State := { s with done := true }

/-- The opening of a bit-cell (42_waveform.md R131): a beat (41_transmit.md R110), or the completion flag (R112), or nothing
when the channel is disabled. -/
def openCell (s : State) : Result :=
  if s.dmaEn then
    if 0 < s.dmaCnt then beat s else .next s.raiseDone
  else .next s

/-- The rest of a tick (42_waveform.md R131): drive the pin, record the level, count. -/
def driveTick (s : State) : State :=
  { s with
    dout := wave s.ccr s.cnt
    line := s.line ++ [(s.showNo, wave s.ccr s.cnt)]
    cnt := (s.cnt + 1) % s.cfg.period }

/-- The tick step of the streamer (42_waveform.md R131). -/
def tick (s : State) : Result :=
  if s.timEn then
    andThen (if s.cnt = 0 then openCell s else .next s) fun t => .next (driveTick t)
  else .next s

end Sys2Proof.Machine
end

