-- ==== Sys2Proof/Machine/Dispatch.lean ====
section
/-! DEFINITION. Which meaning each instruction has. -/

namespace Sys2Proof.Machine
open Sys2Proof

def exec (i : Instr) (s : State) : Host.Outcome State Fault Refusal :=
  match i with
  | .setColor index r g b => Sys2Proof.Machine.execSetColor index r g b s
  | .setColorPacked index packed => Sys2Proof.Machine.execSetColorPacked index packed s
  | .clear => Sys2Proof.Machine.execClear s
  | .pack r g b => Sys2Proof.Machine.execPack r g b s
  | .showFrame => Sys2Proof.Machine.execShow s

end Sys2Proof.Machine
end

