-- ==== Sys2Proof/Machine/Sequencer.lean ====
section
/-! DEFINITION. What each move does: the port and the driver on the block's move, the streamer on a tick, the host and reset
(30_encoding.md R73, 41_transmit.md R106, 70_reset_and_hazards.md R198). -/

namespace Sys2Proof.Machine

/-- A word accepted at the port: a legal one is executed, any other raises `IllegalCommand` (30_encoding.md R73, R81,
60_exceptions.md R161). -/
def acceptWord (w : CmdWord) (s : State) : Result :=
  match decode w with
  | .ok i => exec i s
  | .error _ => .next (s.raise .illegalCommand)

/-- The block's move. In `Idle` the port accepts the held word, if there is one; outside `Idle` it accepts nothing and the
driver makes its next step (30_encoding.md R73, 41_transmit.md R106). -/
def blockMove (s : State) : Result :=
  match s.txState with
  | .idle =>
    match s.held with
    | some w => acceptWord w s.takeHeld
    | none => .next s
  | .arming w => .next (armStep w s)
  | .transmitting => .next (startDraining s)
  | .draining w => .next (drainStep w s)

/-- One move of one agent. -/
def runMove (m : Move) (s : State) : Result :=
  match m with
  | .host => .next s.present
  | .block => blockMove s
  | .tick => tick s
  | .reset => .next s.resetBlock

/-- A step: parameter sets outside the constraints are refused (U11, log entry 2); otherwise the next move is made. -/
def runStep (s : State) : Result :=
  if paramsOK s.cfg then runMove s.nextMove s.advance else .refused .badParameters

/-- The word `w` of `nbits` bits at the port of an idle block whose turn it is. -/
def placeWord (s : State) (nbits w : Nat) : State :=
  { s with
    held := some (BitVec.ofNat 48 (w % 2 ^ nbits))
    txState := .idle
    sched := Move.block :: s.sched }

end Sys2Proof.Machine
end

