-- ==== Sys2Proof/Machine/Step.lean ====
section
/-! DEFINITION. One step of the model. -/

namespace Sys2Proof.Machine

/-- One step: the next move of one agent (10_state.md R20, 00_scope.md section 5). -/
def step (s : State) : Host.Outcome State Fault Refusal := runStep s

/-- The state with the word `w` where the next step takes its instruction from: held at the command port, the block in
`Idle` and the block's move next (30_encoding.md R73, log entry 5). -/
def State.withFetchWord (s : State) (nbits w : Nat) : State := placeWord s nbits w

end Sys2Proof.Machine
end

