-- ==== Sys2Proof/Machine/Observe.lean ====
section
/-! DEFINITION. What can be read off a state: the histories of one show (10_state.md R40), the colour stored in a slice
(30_encoding.md R79) and the byte of a cell on the line (42_waveform.md R143). No step reads these. -/

namespace Sys2Proof.Machine

/-- The bytes that show number `k` copied to `CCR`, in order (10_state.md R40). -/
def State.streamOf (s : State) (k : Nat) : List Byte :=
  (s.stream.filter fun e => e.1 == k).map fun e => e.2

/-- The levels on the line during show number `k`, one per tick (10_state.md R40). -/
def State.lineOf (s : State) (k : Nat) : List Bool :=
  (s.line.filter fun e => e.1 == k).map fun e => e.2

/-- One more decoded bit, at the least significant end. -/
def pushBit (acc : Option Byte) (bit : Option Bool) : Option Byte :=
  match acc, bit with
  | some x, some b => some (x <<< 1 ||| if b then 1#8 else 0#8)
  | _, _ => none

/-- The channel value of eight bytes, most significant bit first, if each is a colour bit (30_encoding.md R79). -/
def decodeChannel (p : Params) (vs : List Byte) : Option Byte :=
  vs.foldl (fun acc v => pushBit acc (decodeClass p v)) (some 0#8)

/-- The colour `(r, g, b)` of a slice of 24 bytes, green first, if each byte is a colour bit (30_encoding.md R79). -/
def decodeSlice (p : Params) (vs : List Byte) : Option (Byte × Byte × Byte) :=
  match decodeChannel p ((vs.drop 8).take 8), decodeChannel p (vs.take 8), decodeChannel p ((vs.drop 16).take 8) with
  | some r, some g, some b => some (r, g, b)
  | _, _, _ => none

/-- The 24 bytes of the slice of LED `i` (30_encoding.md R77). -/
def State.slice (s : State) (i : Nat) : List Byte := (List.range 24).map fun j => s.readByte (i * 24 + j)

/-- The colour stored for LED `i`, if its slice holds one (30_encoding.md R79). -/
def State.ledColour (s : State) (i : Nat) : Option (Byte × Byte × Byte) := decodeSlice s.cfg (s.slice i)

/-- The number of high ticks in bit-cell `k` of a line (42_waveform.md R143). -/
def highTicks (period k : Nat) (levels : List Bool) : Nat :=
  ((levels.drop (k * period)).take period).count true

end Sys2Proof.Machine
end

