-- ==== Sys2Proof/Safety.lean ====
section
/-! DEFINITION. The named premises of 70_reset_and_hazards.md R199 and the invariants of the machine, in the terms claims
use. `ParamsOK` is `paramsOK`; `SequentialHost` holds by construction, since `Move.host` is the host's only move. -/

namespace Sys2Proof.Machine

/-- `AfterReset` (R199): every piece of the block's state has its reset value; the LED region holds the free bytes of this
reset. -/
def AfterReset (s : State) : Prop := s = State.resetWith s.cfg s.resets s.program s.sched s.moveNo s.outside

/-- `IdleClean` (R199). -/
def IdleClean (s : State) : Prop :=
  s.txState = .idle ∧ s.timEn = false ∧ s.dmaEn = false ∧ s.done = false ∧ s.dout = false ∧ s.held = none

/-- A run has ended (R197): every word of the host's list has been answered, the block is in `Idle` and no word is held. -/
def Ended (s : State) : Prop := s.program = [] ∧ s.txState = .idle ∧ s.held = none

/-- `NoFault` (R199). -/
def NoFault (s : State) : Prop := s.err = 0#2

/-- `GapZero` (R199): the gap region holds `0x00`. -/
def GapZero (s : State) : Prop := ∀ a, ledEnd s.cfg ≤ a → a < bufLen s.cfg → s.readByte a = 0x00#8

/-- `AllWritten` (R199): every byte of the LED region is `HIGH` or `LOW`. -/
def AllWritten (s : State) : Prop := ∀ a, a < ledEnd s.cfg → s.readByte a = s.cfg.high ∨ s.readByte a = s.cfg.low

/-- Between `s` and `t` the 24 bytes of the slice of index `i` were written with the colour `(r, g, b)` and the command
answered `OK` (40_encoder.md R91, R92): each byte is the timing class of its bit, every other byte of the buffer is as
before, no other field of the state differs, and the buffer keeps its canonical form. -/
def SliceWritten (s t : State) (i : Nat) (r g b : Byte) : Prop :=
  t = { s with mem := t.mem, responses := s.responses ++ [0x0000000#28] }
    ∧ (∀ c k, c < 3 → k < 8 →
        t.readByte (slot i c k) = if (channelAt r g b c).getLsbD k then s.cfg.high else s.cfg.low)
    ∧ (∀ a, ¬ (i * 24 ≤ a ∧ a < i * 24 + 24) → t.readByte a = s.readByte a)
    ∧ (Memory.wf s.cfg s.mem → Memory.wf t.cfg t.mem)

/-- Between `s` and `t` the 24 writes of the slice of index `i` were made with the colour `(r, g, b)` without regard to `L`, none
of them stopped the machine, and the command answered `OK` (60_exceptions.md R163): each byte below `L` is the timing class of
its bit, the writes at or above `L` stand in the record, in order, every other byte and every other field is as before, and the
buffer keeps its canonical form. -/
def SliceWrittenPastEnd (s t : State) (i : Nat) (r g b : Byte) : Prop :=
  t = { s with
      mem := t.mem
      outside := s.outside ++ cellsOutside s.cfg (sliceCells s.cfg i r g b)
      responses := s.responses ++ [0x0000000#28] }
    ∧ (∀ c k, c < 3 → k < 8 → slot i c k < bufLen s.cfg →
        t.readByte (slot i c k) = if (channelAt r g b c).getLsbD k then s.cfg.high else s.cfg.low)
    ∧ (∀ a, ¬ (i * 24 ≤ a ∧ a < i * 24 + 24 ∧ a < bufLen s.cfg) → t.readByte a = s.readByte a)
    ∧ (Memory.wf s.cfg s.mem → Memory.wf t.cfg t.mem)

/-- The driver does not rest for ever in a show: from every moment on there is a moment at which the driver is in `Idle` or
the block moves. -/
def DriverSteps (r : Nat → State) : Prop := ∀ n, ∃ m, n ≤ m ∧ ((r m).txState = .idle ∨ (r m).nextMove = .block)

/-- A run that no stop ends: each state is the step of the one before it, and the driver takes its steps. R122 leaves any
number of ticks between two steps of the driver, and so no endless row of them: by R118 a driver that waits "polls for ever",
it does not rest (log entry 15). -/
def IsRun (r : Nat → State) : Prop := (∀ n, step (r n) = .next (r (n + 1))) ∧ DriverSteps r

/-- `FairTicks` of a run (R199, R183): while the timer is enabled another tick eventually comes. From every moment on there
is a moment at which the timer is disabled or a tick is the move. -/
def FairTicks (r : Nat → State) : Prop := ∀ n, ∃ m, n ≤ m ∧ ((r m).timEn = false ∨ (r m).nextMove = .tick)

/-- A round of moves that holds a tick and a block's move and no reset. It bounds what `FairTicks` and the driver's steps of
`IsRun` leave unbounded, and assumes more than both: a tick and a block's move in every round, whatever the state, and no
reset (log entries 4 and 15). -/
def FairRound (ms : List Move) : Prop := Move.tick ∈ ms ∧ Move.block ∈ ms ∧ Move.reset ∉ ms

/-- The duty on the parameters that the gap is a reset to the LED chain, `GAP * PERIOD / F_TICK >= T_RESET_MIN`
(42_waveform.md R139). No step checks it. -/
def GapIsReset (p : Params) : Prop := Config.tResetMinNs * Config.fTickHz ≤ p.gap * p.period * 1000000000

/-- What holds in each state of the driver (41_transmit.md R106, R108, R110, R112, R114). -/
def DriverOK (s : State) : Prop :=
  match s.txState with
  | .idle => s.timEn = false ∧ s.dmaEn = false ∧ s.done = false ∧ s.dout = false
  | .arming w =>
    s.timEn = false ∧ s.done = false ∧ s.dout = false ∧ (s.dmaEn = true ↔ w = .enableTimer)
      ∧ (w ≠ .resetCounter → s.cnt = 0)
      ∧ (w = .setLength ∨ w = .enableDma ∨ w = .enableTimer → s.dmaPtr = 0)
      ∧ (w = .enableDma ∨ w = .enableTimer → s.dmaCnt = bufLen s.cfg)
  | .transmitting => s.timEn = true ∧ s.dmaEn = true ∧ s.dmaPtr + s.dmaCnt = bufLen s.cfg ∧ (s.done = true → s.dmaCnt = 0)
  | .draining w =>
    s.dmaPtr + s.dmaCnt = bufLen s.cfg ∧ (s.done = true → s.dmaCnt = 0) ∧ (w ≠ .poll → s.dmaCnt = 0)
      ∧ (s.timEn = true ↔ w = .poll ∨ w = .disableDma ∨ w = .disableTimer)
      ∧ (s.dmaEn = true ↔ w = .poll ∨ w = .disableDma)
      ∧ (w = .disableDma ∨ w = .disableTimer ∨ w = .clearDone → s.done = true)
      ∧ (w = .clearDone ∨ w = .returnToIdle → s.dout = false)
      ∧ (w = .returnToIdle → s.done = false)

/-- The invariant of the block: legal parameters, the buffer in canonical form, the gap region zero under `reject`
(40_encoder.md R100), the bounds of the counters (10_state.md R20) and what holds in each state of the driver. -/
def BlockOK (s : State) : Prop :=
  paramsOK s.cfg = true ∧ Memory.wf s.cfg s.mem ∧ (s.cfg.rangePolicy = .reject → GapZero s)
    ∧ s.cnt < s.cfg.period ∧ s.dmaPtr ≤ bufLen s.cfg ∧ s.dmaCnt ≤ bufLen s.cfg ∧ DriverOK s

/-- The show numbered `k` has been answered. -/
def Answered (s : State) (k : Nat) : Prop := 1 ≤ k ∧ (k < s.showNo ∨ k = s.showNo ∧ s.txState = .idle)

/-- What `STREAM` holds (10_state.md R40, 41_transmit.md R107, R110): nothing of a later show; for every answered show, as
many bytes as the buffer has; for the show in progress, the bytes of the buffer up to the channel's position. -/
def StreamOK (s : State) : Prop :=
  (∀ e ∈ s.stream, 1 ≤ e.1 ∧ e.1 ≤ s.showNo)
    ∧ (∀ k, Answered s k → (s.streamOf k).length = bufLen s.cfg)
    ∧ match s.txState with
      | .idle => True
      | .arming _ => 1 ≤ s.showNo ∧ s.streamOf s.showNo = []
      | .transmitting => 1 ≤ s.showNo ∧ s.streamOf s.showNo = (List.range s.dmaPtr).map s.readByte
      | .draining _ => 1 ≤ s.showNo ∧ s.streamOf s.showNo = (List.range s.dmaPtr).map s.readByte

/-- The level at tick `t` of a show of the buffer's contents (42_waveform.md R135): cell `t div PERIOD`, and the last cell's
byte from then on. -/
def frameLevel (s : State) (t : Nat) : Bool :=
  wave (s.readByte (min (t / s.cfg.period) (bufLen s.cfg - 1))) (t % s.cfg.period)

/-- What the line of the show in progress holds after `n` ticks (42_waveform.md R131, R135). -/
def LineProgress (s : State) (n : Nat) : Prop :=
  s.lineOf s.showNo = (List.range n).map (frameLevel s)
    ∧ s.cnt = n % s.cfg.period
    ∧ s.dmaPtr = min (bufLen s.cfg) ((n + s.cfg.period - 1) / s.cfg.period)
    ∧ (0 < n → s.ccr = s.readByte (s.dmaPtr - 1))
    ∧ (s.timEn = true → s.dout = (0 < n && frameLevel s (n - 1)))

/-- What `LINE` holds: nothing of a later show; for every answered show more levels than its frame has ticks; for the show
in progress, the levels of the buffer's contents, the completion flag set by tick number `L * PERIOD` (41_transmit.md R112). -/
def LineOK (s : State) : Prop :=
  (∀ e ∈ s.line, 1 ≤ e.1 ∧ e.1 ≤ s.showNo)
    ∧ (∀ k, Answered s k → bufLen s.cfg * s.cfg.period < (s.lineOf k).length)
    ∧ match s.txState with
      | .idle => True
      | .arming _ => 1 ≤ s.showNo ∧ s.lineOf s.showNo = []
      | .transmitting =>
        1 ≤ s.showNo ∧ LineProgress s (s.lineOf s.showNo).length
          ∧ (s.done = true ↔ bufLen s.cfg * s.cfg.period < (s.lineOf s.showNo).length)
      | .draining w =>
        1 ≤ s.showNo ∧ LineProgress s (s.lineOf s.showNo).length
          ∧ (s.done = true ∨ w = .returnToIdle ↔ bufLen s.cfg * s.cfg.period < (s.lineOf s.showNo).length)

end Sys2Proof.Machine
end

