-- ==== Sys2Proof/Certificates/Slice0/Obligations.lean ====
section
/-! DEFINITION. The statements for the provers, from the numbered rules of spec/. A docstring that names a log entry says
which choice of the model the statement rests on. -/

open Sys2Proof Sys2Proof.Machine

/-! ## Encodings -/

/-- Every instruction is well-formed, and decoding its word gives it back, every operand at every value
(30_encoding.md section 2, R71, R72). -/
def Obligations.DecodeOfEncodeIsTheInstruction : Prop :=
  ∀ i : Instr, i.wellFormed = true ∧ decode (encode i) = .ok i

/-- Each word has one meaning: a word that decodes is the word of its instruction (30_encoding.md section 2). -/
def Obligations.EncodeOfDecodeIsTheWord : Prop :=
  ∀ (w : CmdWord) (i : Instr), decode w = .ok i → encode i = w

/-- R72: a word selects the row whose match it equals under the row's mask, and the operands are the fields of the word;
SET_COLOR and SET_COLOR_PACKED have the same effect on the same fields. -/
def Obligations.MaskAndMatchSelectTheOperation : Prop :=
  (∀ w : CmdWord,
    (w &&& 0xFF0000000000#48 = 0x100000000000#48 ↔
      decode w = .ok (.setColor (w.extractLsb' 24 16) (w.extractLsb' 16 8) (w.extractLsb' 8 8) (w.extractLsb' 0 8)))
    ∧ (w &&& 0xFF0000000000#48 = 0x200000000000#48 ↔
      decode w = .ok (.setColorPacked (w.extractLsb' 24 16) (w.extractLsb' 0 24)))
    ∧ (w &&& 0xFFFFFFFFFFFF#48 = 0x300000000000#48 ↔ decode w = .ok .clear)
    ∧ (w &&& 0xFFFFFF000000#48 = 0x400000000000#48 ↔
      decode w = .ok (.pack (w.extractLsb' 16 8) (w.extractLsb' 8 8) (w.extractLsb' 0 8)))
    ∧ (w &&& 0xFFFFFFFFFFFF#48 = 0x500000000000#48 ↔ decode w = .ok .showFrame))
  ∧ ∀ (index : LedIndex) (r g b : Byte) (s : State),
      exec (.setColor index r g b) s = exec (.setColorPacked index (r ++ g ++ b)) s

/-- R81, R161: which words are illegal, and that an illegal word accepted at the port raises `IllegalCommand` and has no
other effect. -/
def Obligations.IllegalWordsAndTheirEffect : Prop :=
  (∀ w : CmdWord,
    (∃ e, decode w = .error e) ↔
      ((w.extractLsb' 44 4).toNat = 0 ∨ 6 ≤ (w.extractLsb' 44 4).toNat)
      ∨ w.extractLsb' 40 4 ≠ 0
      ∨ (((w.extractLsb' 44 4).toNat = 3 ∨ (w.extractLsb' 44 4).toNat = 5)
          ∧ (w.extractLsb' 24 16 ≠ 0 ∨ w.extractLsb' 0 24 ≠ 0))
      ∨ ((w.extractLsb' 44 4).toNat = 4 ∧ w.extractLsb' 24 16 ≠ 0))
  ∧ ∀ (w : CmdWord) (e : IllegalWord) (s : State), decode w = .error e →
      acceptWord w s = .next { s with err := s.err ||| 0b01#2, responses := s.responses ++ [0x1000000#28] }

/-- A few words of the spec's encodings, from 95_test_vectors.md V8, V13, V14 and P1. -/
def Obligations.WordsOfTheSpecDecode : Prop :=
  decode 0x100000123456#48 = .ok (.setColor 0 0x12 0x34 0x56)
  ∧ decode 0x200001FF8000#48 = .ok (.setColorPacked 1 0xFF8000)
  ∧ decode 0x300000000000#48 = .ok .clear
  ∧ decode 0x40000000FF00#48 = .ok (.pack 0 255 0)
  ∧ decode 0x500000000000#48 = .ok .showFrame

/-- 20_memory.md R57: a command word on a byte-wide path goes most significant byte first, six bytes. -/
def Obligations.ByteWidePathCarriesTheWord : Prop :=
  (∀ w : CmdWord, wordOfBytes (bytesOfWord w) = some w
    ∧ (bytesOfWord w).head? = some (w.extractLsb' 40 8) ∧ (bytesOfWord w).getLast? = some (w.extractLsb' 0 8))
  ∧ ∀ (bs : List Byte) (w : CmdWord), wordOfBytes bs = some w → bytesOfWord w = bs

/-! ## Formats and arithmetic -/

/-- R75: the packed colour. -/
def Obligations.PackedColourLayout : Prop :=
  (∀ r g b : Byte,
    packColour r g b = r ++ g ++ b
    ∧ packColour r g b = (r.setWidth 24 <<< 16) ||| (g.setWidth 24 <<< 8) ||| b.setWidth 24
    ∧ (packColour r g b).extractLsb' 16 8 = r
    ∧ (packColour r g b).extractLsb' 8 8 = g
    ∧ (packColour r g b).extractLsb' 0 8 = b)
  ∧ packColour 0x12 0x34 0x56 = 0x123456#24

/-- R76: unpacking takes the three fields, and is the inverse of packing both ways. -/
def Obligations.UnpackIsTheInverseOfPack : Prop :=
  (∀ p : Packed,
    unpackColour p =
      (((p >>> 16) &&& 0xFF#24).setWidth 8, ((p >>> 8) &&& 0xFF#24).setWidth 8, (p &&& 0xFF#24).setWidth 8)
    ∧ packColour (unpackColour p).1 (unpackColour p).2.1 (unpackColour p).2.2 = p)
  ∧ ∀ r g b : Byte, unpackColour (packColour r g b) = (r, g, b)

/-- R52: the slot function is injective and its image over all LEDs, channels and bits is the LED region. -/
def Obligations.SlotIsInjectiveOntoTheLedRegion : Prop :=
  (∀ i c k i' c' k' : Nat, c < 3 → k < 8 → c' < 3 → k' < 8 → slot i c k = slot i' c' k' → i = i' ∧ c = c' ∧ k = k')
  ∧ (∀ n a : Nat, a < n * 24 ↔ ∃ i c k, i < n ∧ c < 3 ∧ k < 8 ∧ slot i c k = a)
  ∧ (∀ i c k : Nat, slot i c k = i * 24 + c * 8 + (7 - k))
  ∧ slot 2 1 7 = 56

/-- R78: the timing class of a bit; it is never the zero class, and a black LED is 24 bytes of `LOW`. -/
def Obligations.TimingClassOfABit : Prop :=
  ∀ p : Params, paramsOK p = true →
    timingClass p true = p.high ∧ timingClass p false = p.low
    ∧ (∀ bit, timingClass p bit ≠ 0x00#8)
    ∧ ∀ i, (sliceCells p i 0 0 0).map (fun c => c.2) = List.replicate 24 p.low

/-- R79: `dec` is the inverse of `tc` and has no value on any other byte. -/
def Obligations.DecodedClassIsTheBit : Prop :=
  ∀ p : Params, paramsOK p = true →
    (∀ bit, decodeClass p (timingClass p bit) = some bit)
    ∧ ∀ v bit, decodeClass p v = some bit → v = timingClass p bit

/-- R132, R133, R134: a cell with compare value `v` is high for its first `min v PERIOD` ticks and low for the rest; so the
three cells of a well-formed buffer are the long pulse, the short pulse and no pulse. -/
def Obligations.CellsOnTheLine : Prop :=
  (∀ (v : Byte) (period : Nat),
    (List.range period).map (wave v)
      = List.replicate (min v.toNat period) true ++ List.replicate (period - min v.toNat period) false)
  ∧ ∀ p : Params, paramsOK p = true →
    (List.range p.period).map (wave p.high)
      = List.replicate p.high.toNat true ++ List.replicate (p.period - p.high.toNat) false
    ∧ (List.range p.period).map (wave p.low)
      = List.replicate p.low.toNat true ++ List.replicate (p.period - p.low.toNat) false
    ∧ (List.range p.period).map (wave 0x00#8) = List.replicate p.period false
    ∧ 0 < p.low.toNat ∧ p.low.toNat < p.high.toNat ∧ 0 < p.period - p.high.toNat ∧ 3 ≤ p.period

/-! ## The encoder -/

/-- R92: a SET_COLOR word with `rsv` not zero is illegal, whatever its index; then an index at or above `N` raises
`RangeError` (under `reject`); otherwise the 24 bytes of the slice are written, `OK` is answered and nothing else changes. -/
def Obligations.SetColorWritesItsSlice : Prop :=
  (∀ (s : State) (index : LedIndex) (r g b : Byte), index.toNat < s.cfg.n →
    ∃ t, exec (.setColor index r g b) s = .next t ∧ SliceWritten s t index.toNat r g b)
  ∧ (∀ (s : State) (index : LedIndex) (r g b : Byte), s.cfg.rangePolicy = .reject → s.cfg.n ≤ index.toNat →
      exec (.setColor index r g b) s = .next (s.raise .rangeError))
  ∧ ∀ (s : State) (w : CmdWord), w.extractLsb' 44 4 = 0x1#4 → w.extractLsb' 40 4 ≠ 0 →
      acceptWord w s = .next (s.raise .illegalCommand)

/-- R93: a SET_COLOR_PACKED word with `rsv` not zero is illegal, whatever its index; then an index at or above `N` raises
`RangeError` (under `reject`); otherwise the 24 bytes of the slice are written with the unpacked colour, `OK` is answered and
nothing else changes. It equals SET_COLOR for a packed colour that is `pack(r, g, b)`. -/
def Obligations.SetColorPackedWritesItsSlice : Prop :=
  (∀ (s : State) (index : LedIndex) (p : Packed), index.toNat < s.cfg.n →
    ∃ t, exec (.setColorPacked index p) s = .next t
      ∧ SliceWritten s t index.toNat (p.extractLsb' 16 8) (p.extractLsb' 8 8) (p.extractLsb' 0 8))
  ∧ (∀ (s : State) (index : LedIndex) (p : Packed), s.cfg.rangePolicy = .reject → s.cfg.n ≤ index.toNat →
      exec (.setColorPacked index p) s = .next (s.raise .rangeError))
  ∧ (∀ (s : State) (w : CmdWord), w.extractLsb' 44 4 = 0x2#4 → w.extractLsb' 40 4 ≠ 0 →
      acceptWord w s = .next (s.raise .illegalCommand))
  ∧ ∀ (s : State) (index : LedIndex) (r g b : Byte),
      exec (.setColorPacked index (packColour r g b)) s = exec (.setColor index r g b) s

/-- R97: after SET_COLOR, decoding the slice gives the colour back, bit by bit and as a whole, and no byte outside the slice
has changed. -/
def Obligations.SetColorRoundTrip : Prop :=
  ∀ (s : State) (index : LedIndex) (r g b : Byte), paramsOK s.cfg = true → index.toNat < s.cfg.n →
    ∃ t, exec (.setColor index r g b) s = .next t
      ∧ (∀ c k, c < 3 → k < 8 →
          decodeClass s.cfg (t.readByte (slot index.toNat c k)) = some ((channelAt r g b c).getLsbD k))
      ∧ t.ledColour index.toNat = some (r, g, b)
      ∧ ∀ a, ¬ (index.toNat * 24 ≤ a ∧ a < index.toNat * 24 + 24) → t.readByte a = s.readByte a

/-- R162: under `reject` an index at or above `N` raises `RangeError` in both operations; nothing is written. -/
def Obligations.IndexOutOfRangeIsRejected : Prop :=
  ∀ (s : State) (index : LedIndex) (r g b : Byte) (p : Packed),
    s.cfg.rangePolicy = .reject → s.cfg.n ≤ index.toNat →
    exec (.setColor index r g b) s
        = .next { s with err := s.err ||| 0b10#2, responses := s.responses ++ [0x2000000#28] }
    ∧ exec (.setColorPacked index p) s
        = .next { s with err := s.err ||| 0b10#2, responses := s.responses ++ [0x2000000#28] }

/-- R163, `unchecked`: an index at or above `N` makes its 24 writes, with no flag set. Where all lie below `L` the slice is
written into the gap region (V17's kind of corruption). Where some lie at or above `L`, those below `L` are made all the same
and the machine goes on with the others recorded, or one of the others stops it: which of the two is a free value of each
write at or above `L` (log entry 10, as is the answer `OK`). -/
def Obligations.UncheckedIndexWritesBeyondTheLedRegion : Prop :=
  ∀ (s : State) (i : Instr) (index : LedIndex) (r g b : Byte),
    s.cfg.rangePolicy = .unchecked → s.cfg.n ≤ index.toNat →
    (i = .setColor index r g b ∨ i = .setColorPacked index (r ++ g ++ b)) →
    if index.toNat * 24 + 24 ≤ bufLen s.cfg then
      ∃ t, exec i s = .next t ∧ SliceWritten s t index.toNat r g b
    else
      let beyond := (cellsOutside s.cfg (sliceCells s.cfg index.toNat r g b)).length
      beyond = index.toNat * 24 + 24 - max (index.toNat * 24) (bufLen s.cfg)
      ∧ (((∃ j, j < beyond ∧ Config.outsideWriteStops (s.outside.length + j) = true)
            ∧ exec i s = .fault .writeOutsideBuffer)
        ∨ ((∀ j, j < beyond → Config.outsideWriteStops (s.outside.length + j) = false)
            ∧ ∃ t, exec i s = .next t ∧ SliceWrittenPastEnd s t index.toNat r g b))

/-- R94: CLEAR makes every byte of the LED region `LOW`, so that every LED decodes to black, leaves every other byte and
every other field, and answers `OK`; with `N = 0` it writes nothing; a CLEAR word with another field not zero is illegal. -/
def Obligations.ClearMakesEveryLedBlack : Prop :=
  (∀ s : State, ∃ t, exec .clear s = .next t
    ∧ t = { s with mem := t.mem, responses := s.responses ++ [0x0000000#28] }
    ∧ (∀ a, a < s.cfg.n * 24 → t.readByte a = s.cfg.low)
    ∧ (∀ a, s.cfg.n * 24 ≤ a → t.readByte a = s.readByte a)
    ∧ (s.cfg.n = 0 → t.mem = s.mem)
    ∧ (paramsOK s.cfg = true → ∀ i, i < s.cfg.n → t.ledColour i = some (0, 0, 0))
    ∧ (Memory.wf s.cfg s.mem → Memory.wf t.cfg t.mem))
  ∧ ∀ (w : CmdWord) (s : State), w.extractLsb' 44 4 = 0x3#4 →
      (w.extractLsb' 40 4 ≠ 0 ∨ w.extractLsb' 24 16 ≠ 0 ∨ w.extractLsb' 0 24 ≠ 0) →
      acceptWord w s = .next (s.raise .illegalCommand)

/-- R85: SET_COLOR_PACKED is SET_COLOR of the unpacked colour, and CLEAR leaves the buffer as SET_COLOR of black on every LED
in order does; the two runs differ in the number of responses only. -/
def Obligations.OperationsDefinedByExpansion : Prop :=
  (∀ (s : State) (index : LedIndex) (p : Packed),
    exec (.setColorPacked index p) s
      = exec (.setColor index (p.extractLsb' 16 8) (p.extractLsb' 8 8) (p.extractLsb' 0 8)) s)
  ∧ ∀ s : State, paramsOK s.cfg = true →
    ∃ t, exec .clear s = .next t
      ∧ (List.range s.cfg.n).foldl (fun o i => andThen o (exec (.setColor (BitVec.ofNat 16 i) 0 0 0))) (.next s)
        = .next { t with responses := s.responses ++ List.replicate s.cfg.n 0x0000000#28 }

/-- R91, R92 (V12): a pure overwrite: of two SET_COLOR on one LED the buffer keeps the second only, as equal data. -/
def Obligations.SecondColourOverwritesTheFirst : Prop :=
  ∀ (s : State) (index : LedIndex) (r g b r' g' b' : Byte),
    paramsOK s.cfg = true → Memory.wf s.cfg s.mem → index.toNat < s.cfg.n →
    ∃ t, exec (.setColor index r' g' b') s = .next t
      ∧ andThen (exec (.setColor index r g b) s) (exec (.setColor index r' g' b'))
        = .next { t with responses := s.responses ++ [0x0000000#28, 0x0000000#28] }

/-- R95: PACK answers the packed colour, which is the payload of its word, and changes nothing else; a PACK word with `rsv`
or `index` not zero is illegal. -/
def Obligations.PackAnswersThePackedColour : Prop :=
  (∀ (r g b : Byte) (s : State),
    exec (.pack r g b) s = .next { s with responses := s.responses ++ [0x0#4 ++ (r ++ g ++ b)] })
  ∧ (∀ (w : CmdWord) (r g b : Byte), decode w = .ok (.pack r g b) → r ++ g ++ b = w.extractLsb' 0 24)
  ∧ ∀ (w : CmdWord) (s : State), w.extractLsb' 44 4 = 0x4#4 →
      (w.extractLsb' 40 4 ≠ 0 ∨ w.extractLsb' 24 16 ≠ 0) →
      acceptWord w s = .next (s.raise .illegalCommand)

/-- R90: an encoder operation that ends in a next state changes nothing but the buffer, `ERR`, the responses and, under
`unchecked`, the record of writes outside the buffer (log entry 10); it answers at once with one response, and writes no byte
when it raises a fault of R160. -/
def Obligations.EncoderOperationsLeaveTheRestAlone : Prop :=
  ∀ (i : Instr) (s t : State), i ≠ .showFrame → exec i s = .next t →
    t = { s with mem := t.mem, err := t.err, responses := t.responses, outside := t.outside }
    ∧ (∃ r, t.responses = s.responses ++ [r])
    ∧ (t.responses = s.responses ++ [0x2000000#28] →
        t.mem = s.mem ∧ t.outside = s.outside ∧ t.err = s.err ||| 0b10#2)
    ∧ (t.responses ≠ s.responses ++ [0x2000000#28] → t.err = s.err)
    ∧ (s.cfg.rangePolicy = .reject → t.outside = s.outside)
    ∧ ∃ cs, t.outside = s.outside ++ cs ∧ ∀ c ∈ cs, bufLen s.cfg ≤ c.1

/-! ## The command port and faults -/

/-- A step runs the decoded instruction: when it is the block's move, the block is in `Idle` and a legal word waits at the
port, the step is `exec` of the word's instruction on the state in which the move and the word have been taken
(30_encoding.md R73). -/
def Obligations.StepRunsTheAcceptedInstruction : Prop :=
  ∀ (s : State) (w : CmdWord) (i : Instr), paramsOK s.cfg = true → s.nextMove = .block → s.txState = .idle →
    s.held = some w → decode w = .ok i → step s = exec i { s.advance with held := none }

/-- The placed word is the one that the next step runs (log entry 5). -/
def Obligations.PlacedInstructionRunsNext : Prop :=
  ∀ (s : State) (i : Instr), paramsOK s.cfg = true →
    step (s.withFetchWord 48 (encode i).toNat) = exec i { s with held := none, txState := .idle }

/-- R165, R166: an illegal word accepted by a step, whatever its index, sets `ERR[0]` only and is answered by status 1; a
range error sets `ERR[1]` only and is answered by status 2; neither changes anything else, and the block stays in `Idle`. -/
def Obligations.FaultEntry : Prop :=
  (∀ (s : State) (w : CmdWord) (e : IllegalWord), paramsOK s.cfg = true → s.nextMove = .block → s.txState = .idle →
    s.held = some w → decode w = .error e →
    step s = .next { s.advance with
      held := none, err := s.err ||| 0b01#2, responses := s.responses ++ [0x1000000#28] })
  ∧ ∀ (s : State) (w : CmdWord) (index : LedIndex) (r g b : Byte) (p : Packed),
    paramsOK s.cfg = true → s.cfg.rangePolicy = .reject → s.nextMove = .block → s.txState = .idle →
    s.held = some w → (decode w = .ok (.setColor index r g b) ∨ decode w = .ok (.setColorPacked index p)) →
    s.cfg.n ≤ index.toNat →
    step s = .next { s.advance with
      held := none, err := s.err ||| 0b10#2, responses := s.responses ++ [0x2000000#28] }

/-- R38, R167: `ERR` is set by a fault on a command and by nothing else, and cleared by reset only. -/
def Obligations.FaultFlagsAreSticky : Prop :=
  ∀ s t : State, step s = .next t →
    (s.nextMove = .reset → t.err = 0#2)
    ∧ (s.nextMove ≠ .reset →
        t.err = s.err
        ∨ ∃ w, s.nextMove = .block ∧ s.txState = .idle ∧ s.held = some w
          ∧ (((∃ e, decode w = .error e) ∧ t.err = s.err ||| 0b01#2)
            ∨ (∃ index r g b p, (decode w = .ok (.setColor index r g b) ∨ decode w = .ok (.setColorPacked index p))
                ∧ s.cfg.n ≤ index.toNat ∧ s.cfg.rangePolicy = .reject ∧ t.err = s.err ||| 0b10#2)))

/-- R74: a step gives at most one response; its status is 0, 1 or 2, its result is 0 unless it answers a PACK, and then it is
the packed colour. -/
def Obligations.ResponsesAreThoseOfTheSpec : Prop :=
  ∀ s t : State, step s = .next t → s.nextMove ≠ .reset →
    t.responses = s.responses
    ∨ ∃ (status : BitVec 4) (result : Packed), t.responses = s.responses ++ [status ++ result]
        ∧ (status = 0x0#4 ∨ (status = 0x1#4 ∨ status = 0x2#4) ∧ result = 0)
        ∧ (result ≠ 0 → ∃ w r g b, s.held = some w ∧ decode w = .ok (.pack r g b) ∧ result = r ++ g ++ b)

/-- R73, R117: outside `Idle` the port accepts nothing: a held word waits unchanged, and no response is given but that of the
show that returns to `Idle`. In `Idle` the block's move takes the held word. -/
def Obligations.PortHoldsWhileBusy : Prop :=
  ∀ (s t : State) (w : CmdWord), step s = .next t → s.held = some w → s.nextMove ≠ .reset →
    (s.txState ≠ .idle →
      t.held = some w ∧ t.program = s.program ∧ t.showNo = s.showNo
      ∧ (t.responses = s.responses ∨ t.txState = .idle ∧ t.responses = s.responses ++ [0x0000000#28]))
    ∧ (s.txState = .idle → s.nextMove = .block → t.held = none)
    ∧ (s.txState = .idle → s.nextMove ≠ .block → t.held = some w ∧ t.program = s.program)

/-- R197, R198: the host presents its words in order, one at a time, and waits while one is held. The list of words is the
model's (log entry 5). -/
def Obligations.HostPresentsOneWordAtATime : Prop :=
  ∀ s : State, paramsOK s.cfg = true → s.nextMove = .host →
    (∀ w ws, s.held = none → s.program = w :: ws → step s = .next { s.advance with held := some w, program := ws })
    ∧ (∀ w, s.held = some w → step s = .next s.advance)
    ∧ (s.program = [] → step s = .next s.advance)

/-- R53, R61: but for reset, the buffer changes only when the block, in `Idle`, executes one of the three writing
operations; outside `Idle` no byte of it changes. -/
def Obligations.BufferChangesOnlyInIdle : Prop :=
  ∀ s t : State, step s = .next t → s.nextMove ≠ .reset →
    (s.txState ≠ .idle → t.mem = s.mem ∧ ∀ a, t.readByte a = s.readByte a)
    ∧ (t.mem ≠ s.mem → s.nextMove = .block ∧ s.txState = .idle
        ∧ ∃ w i, s.held = some w ∧ decode w = .ok i ∧ i ≠ .showFrame ∧ ∀ r g b, i ≠ .pack r g b)

/-- R27: no step changes a parameter. -/
def Obligations.NoStepChangesAParameter : Prop :=
  ∀ s t : State, step s = .next t → t.cfg = s.cfg

/-- The constraints of R7, R8 and R11 on the parameters; a step of an instance outside them is refused (U11, log entry 2). -/
def Obligations.ParametersOutsideTheConstraintsAreRefused : Prop :=
  (∀ p : Params, paramsOK p = true ↔
    p.n ≤ 65535 ∧ 1 ≤ p.gap ∧ 0 < p.low.toNat ∧ p.low.toNat < p.high.toNat ∧ p.high.toNat < p.period)
  ∧ ∀ s : State, paramsOK s.cfg = false → step s = .refused .badParameters

/-! ## The driver and the streamer -/

/-- R105, R106: the effect of SHOW once it is accepted: `TX_STATE` becomes `Arming`, the show gets the next number (R40), and
nothing else changes. `exec` has this effect in any state, because the check for `Idle` is the port's and not `exec`'s (log
entry 9): `PortHoldsWhileBusy` says that no run accepts a SHOW outside `Idle`. What the driver does after the acceptance is
stated below (log entry 6). -/
def Obligations.ShowStartsArming : Prop :=
  ∀ s : State, exec .showFrame s
    = .next { s with txState := .arming .resetCounter, showNo := s.showNo + 1 }

/-- R108: the five arming writes, in order, each one step of the block (its position is log entry 7); until the fifth the timer is disabled and ticks do
nothing. -/
def Obligations.ArmingWritesInOrder : Prop :=
  ∀ s1 : State, s1.txState = .arming .resetCounter →
    let s2 : State := { s1 with cnt := 0, txState := .arming .setSource }
    let s3 : State := { s2 with dmaPtr := 0, txState := .arming .setLength }
    let s4 : State := { s3 with dmaCnt := s1.cfg.n * 24 + s1.cfg.gap, txState := .arming .enableDma }
    let s5 : State := { s4 with dmaEn := true, txState := .arming .enableTimer }
    let s6 : State := { s5 with timEn := true, txState := .transmitting }
    blockMove s1 = .next s2 ∧ blockMove s2 = .next s3 ∧ blockMove s3 = .next s4 ∧ blockMove s4 = .next s5
    ∧ blockMove s5 = .next s6
    ∧ (s1.timEn = false → tick s1 = .next s1 ∧ tick s2 = .next s2 ∧ tick s3 = .next s3 ∧ tick s4 = .next s4
        ∧ tick s5 = .next s5)

/-- R113: the step after arming starts polling; a poll that finds `DONE = 0` changes nothing, one that finds `DONE = 1` goes
to completion (the position is log entry 7). -/
def Obligations.DrainingPollsTheFlag : Prop :=
  (∀ s : State, s.txState = .transmitting → blockMove s = .next { s with txState := .draining .poll })
  ∧ ∀ s : State, s.txState = .draining .poll →
    (s.done = false → blockMove s = .next s)
    ∧ (s.done = true → blockMove s = .next { s with txState := .draining .disableDma })

/-- R114: the completion writes, in order, then the return to `Idle` with the answer; every other register keeps its value
(the position is log entry 7). -/
def Obligations.CompletionWritesInOrder : Prop :=
  ∀ s1 : State, s1.txState = .draining .disableDma →
    let s2 : State := { s1 with dmaEn := false, txState := .draining .disableTimer }
    let s3 : State := { s2 with timEn := false, dout := false, txState := .draining .clearDone }
    let s4 : State := { s3 with done := false, txState := .draining .returnToIdle }
    let s5 : State := { s4 with txState := .idle, responses := s1.responses ++ [0x0000000#28] }
    blockMove s1 = .next s2 ∧ blockMove s2 = .next s3 ∧ blockMove s3 = .next s4 ∧ blockMove s4 = .next s5

/-- R131 with R110, R112 and R132: the tick, case by case; and tick number `t` of a show has `CNT = t mod PERIOD`. -/
def Obligations.TickOfTheStreamer : Prop :=
  (∀ s : State, BlockOK s → LineOK s → s.timEn = true → s.cnt = (s.lineOf s.showNo).length % s.cfg.period)
  ∧ ∀ s : State,
    (s.timEn = false → tick s = .next s)
    ∧ (s.timEn = true → s.cnt ≠ 0 →
        tick s = .next { s with
          dout := decide (s.cnt < s.ccr.toNat)
          line := s.line ++ [(s.showNo, decide (s.cnt < s.ccr.toNat))]
          cnt := (s.cnt + 1) % s.cfg.period })
    ∧ (s.timEn = true → s.cnt = 0 → s.dmaEn = true → 0 < s.dmaCnt → s.dmaPtr < bufLen s.cfg →
        tick s = .next { s with
          ccr := s.readByte s.dmaPtr
          dmaPtr := s.dmaPtr + 1
          dmaCnt := s.dmaCnt - 1
          stream := s.stream ++ [(s.showNo, s.readByte s.dmaPtr)]
          dout := decide (0 < (s.readByte s.dmaPtr).toNat)
          line := s.line ++ [(s.showNo, decide (0 < (s.readByte s.dmaPtr).toNat))]
          cnt := 1 % s.cfg.period })
    ∧ (s.timEn = true → s.cnt = 0 → s.dmaEn = true → s.dmaCnt = 0 →
        tick s = .next { s with
          done := true
          dout := decide (0 < s.ccr.toNat)
          line := s.line ++ [(s.showNo, decide (0 < s.ccr.toNat))]
          cnt := 1 % s.cfg.period })
    ∧ (s.timEn = true → s.cnt = 0 → s.dmaEn = false →
        tick s = .next { s with
          dout := decide (0 < s.ccr.toNat)
          line := s.line ++ [(s.showNo, decide (0 < s.ccr.toNat))]
          cnt := 1 % s.cfg.period })

/-- R59, R33: in a state of the invariant a beat reads inside the buffer; a beat at or above `L`, in a state that no run
reaches, stops (log entry 11). -/
def Obligations.BeatsReadInsideTheBuffer : Prop :=
  (∀ s : State, BlockOK s → s.timEn = true → s.dmaEn = true → 0 < s.dmaCnt → s.dmaPtr < bufLen s.cfg)
  ∧ ∀ s : State, s.timEn = true → s.cnt = 0 → s.dmaEn = true → 0 < s.dmaCnt → bufLen s.cfg ≤ s.dmaPtr →
    tick s = .fault .readOutsideBuffer

/-- R106: but for reset, `TX_STATE` moves only by the block's move and only along `Idle`, `Arming`, `Transmitting`,
`Draining`, `Idle`, each transition under its condition. -/
def Obligations.DriverMovesOnlyAlongItsCycle : Prop :=
  ∀ s t : State, step s = .next t → s.nextMove ≠ .reset →
    t.txState.phase = s.txState.phase
    ∨ (s.nextMove = .block
      ∧ ((s.txState = .idle ∧ t.txState = .arming .resetCounter ∧ ∃ w, s.held = some w ∧ decode w = .ok .showFrame)
        ∨ (s.txState = .arming .enableTimer ∧ t.txState = .transmitting ∧ t.timEn = true)
        ∨ (s.txState = .transmitting ∧ t.txState = .draining .poll)
        ∨ (s.txState = .draining .returnToIdle ∧ t.txState = .idle ∧ t.responses = s.responses ++ [0x0000000#28])))

/-- R142: `DOUT` changes only in a tick while the timer runs, in completion write 2, or by reset. -/
def Obligations.PinChangesOnlyInATickOrCompletion : Prop :=
  ∀ s t : State, step s = .next t → t.dout ≠ s.dout →
    (s.nextMove = .tick ∧ s.timEn = true)
    ∨ (s.nextMove = .block ∧ s.txState = .draining .disableTimer ∧ t.dout = false)
    ∨ (s.nextMove = .reset ∧ t.dout = false)

/-- R180, R25: reset puts every piece of state at its reset value from any state; the gap region reads `0x00` and the LED
region the free bytes of this reset (log entry 3); a held word is discarded. The list of responses is the model's, and that
reset empties it is the model's choice, which no rule gives (log entry 8). The host's list, the moves to come and the
parameters are not the block's, nor is the record of what was written outside it (log entries 1, 4, 5, 10). -/
def Obligations.ResetEvent : Prop :=
  ∀ s : State, paramsOK s.cfg = true → s.nextMove = .reset →
    ∃ t, step s = .next t
      ∧ t.txState = .idle ∧ t.timEn = false ∧ t.dmaEn = false ∧ t.done = false ∧ t.dout = false ∧ t.cnt = 0
      ∧ t.ccr = 0x00#8 ∧ t.dmaPtr = 0 ∧ t.dmaCnt = 0 ∧ t.err = 0#2 ∧ t.stream = [] ∧ t.line = [] ∧ t.showNo = 0
      ∧ t.held = none ∧ t.responses = [] ∧ t.mem = []
      ∧ (∀ a, ledEnd s.cfg ≤ a → a < bufLen s.cfg → t.readByte a = 0x00#8)
      ∧ (∀ a, a < ledEnd s.cfg → t.readByte a = Config.resetByte (s.resets + 1) a)
      ∧ t.cfg = s.cfg ∧ t.program = s.program ∧ t.sched = s.advance.sched ∧ t.outside = s.outside

/-! ## Invariants -/

/-- Every step keeps the invariant of the block: the buffer's canonical form, the gap region zero (R100), the bounds of the
counters (R20, R34) and what holds in each state of the driver (R106). -/
def Obligations.EveryStepKeepsTheInvariant : Prop :=
  ∀ s t : State, BlockOK s → step s = .next t → BlockOK t

/-- Every step keeps what `STREAM` holds (R107, R110): each answered show has copied exactly `L` bytes, and the show in
progress the bytes of the buffer up to `DMA_PTR`, in order. -/
def Obligations.EveryStepKeepsTheStream : Prop :=
  ∀ s t : State, BlockOK s → StreamOK s → step s = .next t → StreamOK t

/-- Every step keeps what `LINE` holds (R131, R135), whatever the order of ticks and driver steps: tick `t` of the show in
progress has the level of cell `t div PERIOD` at counter `t mod PERIOD`, and `DONE` rises in tick `L * PERIOD` (R112). -/
def Obligations.EveryStepKeepsTheLine : Prop :=
  ∀ s t : State, BlockOK s → LineOK s → step s = .next t → LineOK t

/-- R199: a state after reset is idle and clean, without a fault and with a zero gap region, and with legal parameters it
meets the three invariants; the machine's own reset state is such a state (its parameters are log entry 1). -/
def Obligations.ResetStateMeetsTheInvariants : Prop :=
  (∀ s : State, AfterReset s → IdleClean s ∧ NoFault s ∧ GapZero s
    ∧ (paramsOK s.cfg = true → BlockOK s ∧ StreamOK s ∧ LineOK s))
  ∧ AfterReset State.reset ∧ paramsOK State.reset.cfg = true

/-- With legal parameters under `reject` no step stops: from every state that meets the invariant a step answers a next
state (R96, R166). Under `unchecked` the only stop is the fault of a write outside the buffer (R163, log entry 10). -/
def Obligations.NoStepStopsUnderReject : Prop :=
  (∀ s : State, BlockOK s → s.cfg.rangePolicy = .reject → ∃ t, step s = .next t)
  ∧ ∀ s : State, BlockOK s → (∃ t, step s = .next t) ∨ step s = .fault .writeOutsideBuffer

/-- R115: the contract of SHOW, at the step that answers it: the block is back in `Idle`, the show has copied the whole
buffer in order, and its line holds at least the `L * PERIOD` levels of the frame; the buffer is unchanged. -/
def Obligations.ShowAnsweredHasSentTheBuffer : Prop :=
  ∀ s : State, BlockOK s → StreamOK s → LineOK s → s.txState = .draining .returnToIdle → s.nextMove = .block →
    ∃ t, step s = .next t
      ∧ t.txState = .idle ∧ t.timEn = false ∧ t.dmaEn = false ∧ t.done = false ∧ t.dout = false
      ∧ t.responses = s.responses ++ [0x0000000#28]
      ∧ t.frame = s.frame
      ∧ t.streamOf t.showNo = t.frame
      ∧ (t.lineOf t.showNo).take (bufLen t.cfg * t.cfg.period)
        = (List.range (bufLen t.cfg * t.cfg.period)).map
            fun n => wave (t.readByte (n / t.cfg.period)) (n % t.cfg.period)

/-- R116: two shows of the same buffer contents copy the identical byte sequence. -/
def Obligations.EqualBuffersGiveEqualStreams : Prop :=
  ∀ s s' : State, BlockOK s → BlockOK s' → StreamOK s → StreamOK s' → s.cfg = s'.cfg →
    s.txState = .draining .returnToIdle → s'.txState = .draining .returnToIdle →
    (∀ a, a < bufLen s.cfg → s.readByte a = s'.readByte a) →
    s.streamOf s.showNo = s'.streamOf s'.showNo

/-- R120: with `N = 0` a show sends the gap only, `GAP` zero bytes, and the line stays low throughout. -/
def Obligations.EmptyStripSendsOnlyTheGap : Prop :=
  ∀ s : State, BlockOK s → StreamOK s → LineOK s → s.cfg.rangePolicy = .reject → s.cfg.n = 0 →
    s.txState = .draining .returnToIdle →
    s.streamOf s.showNo = List.replicate s.cfg.gap 0x00#8
    ∧ s.cfg.gap * s.cfg.period < (s.lineOf s.showNo).length
    ∧ ∀ level ∈ s.lineOf s.showNo, level = false

/-- R118, R119, R140 (bounded liveness): from any state of the invariant, a stretch of moves without a reset that holds, in
order, at least `(L + 1) * PERIOD + 11` rounds with a tick and a block's move each, brings the block to `Idle` at some
moment. The premise is `FairRound`, not `FairTicks`: it assumes a block's move in every round too, and the order of moves is
the model's (log entries 4 and 15). `ShowEndsOnEveryFairRun` has `FairTicks` itself. -/
def Obligations.ShowEndsWithinFairRounds : Prop :=
  ∀ (s : State) (rounds : List (List Move)) (rest : List Move), BlockOK s →
    s.sched = rounds.flatten ++ rest → (∀ ms ∈ rounds, FairRound ms) →
    (bufLen s.cfg + 1) * s.cfg.period + 11 ≤ rounds.length →
    ∃ k t, k ≤ rounds.flatten.length ∧ Sys2Proof.core.run k s = .next t ∧ t.txState = .idle

/-- R115 with R118 (the contract of SHOW, end to end): over enough rounds with a tick and a block's move each, without a
reset (`FairRound`; the order of moves is the model's, log entries 4 and 15), a SHOW accepted in `Idle` ends with the block
back in `Idle`, answered `OK` once; its stream is the buffer that was there when it was accepted, its line begins with the
`L * PERIOD` levels of that buffer's cells, and neither the buffer nor a fault flag has changed. -/
def Obligations.ShowSendsTheBufferAndEnds : Prop :=
  ∀ (s : State) (rounds : List (List Move)) (rest : List Move), BlockOK s → StreamOK s → LineOK s → s.txState = .idle →
    s.sched = rounds.flatten ++ rest → (∀ ms ∈ rounds, FairRound ms) →
    (bufLen s.cfg + 1) * s.cfg.period + 11 ≤ rounds.length →
    ∃ u k t, exec .showFrame s = .next u ∧ k ≤ rounds.flatten.length ∧ Sys2Proof.core.run k u = .next t
      ∧ t.txState = .idle ∧ t.timEn = false ∧ t.dmaEn = false ∧ t.done = false ∧ t.dout = false
      ∧ t.responses = s.responses ++ [0x0000000#28] ∧ t.err = s.err
      ∧ t.showNo = s.showNo + 1 ∧ t.mem = s.mem ∧ t.frame = s.frame
      ∧ t.streamOf t.showNo = s.frame
      ∧ (t.lineOf t.showNo).take (bufLen s.cfg * s.cfg.period)
        = (List.range (bufLen s.cfg * s.cfg.period)).map
            fun n => wave (s.readByte (n / s.cfg.period)) (n % s.cfg.period)

/-- R118 (hang): while no tick and no reset comes, a show that waits in `Draining` with `DONE = 0` waits for ever: no number
of driver steps and host moves ends it, changes a register, or answers any command. -/
def Obligations.ShowHangsWithoutTicks : Prop :=
  ∀ (s : State) (ms rest : List Move), paramsOK s.cfg = true → s.txState = .draining .poll → s.done = false →
    s.sched = ms ++ rest → Move.tick ∉ ms → Move.reset ∉ ms →
    ∃ t, Sys2Proof.core.run ms.length s = .next t
      ∧ t = { s with sched := rest, held := t.held, program := t.program }
      ∧ (∀ w, s.held = some w → t.held = some w)

/-- R197: when a run has ended, no agent but reset changes the block: a step that is no reset takes the move and nothing
more. -/
def Obligations.EndedRunStaysEnded : Prop :=
  ∀ s : State, BlockOK s → Ended s → s.nextMove ≠ .reset → step s = .next s.advance ∧ Ended s.advance

/-- R121: once all bytes are copied, no step copies another until the next arming. -/
def Obligations.OnePassPerShow : Prop :=
  ∀ s t : State, BlockOK s → s.dmaCnt = 0 → (∀ w, s.txState ≠ .arming w) → step s = .next t → s.nextMove ≠ .reset →
    t.stream = s.stream ∧ t.ccr = s.ccr ∧ t.dmaCnt = 0 ∧ t.dmaPtr = s.dmaPtr

/-- R112, R140: `DONE` rises exactly in the tick that follows the `L * PERIOD` ticks of the frame. -/
def Obligations.DoneRisesAfterTheLastCell : Prop :=
  ∀ s t : State, BlockOK s → LineOK s → s.timEn = true → s.done = false → tick s = .next t →
    (t.done = true ↔ (s.lineOf s.showNo).length = bufLen s.cfg * s.cfg.period)

/-- R123: while the driver is late, after `DONE` has risen, every tick leaves the line low and the stream as it is (under
`reject`). -/
def Obligations.LateDriverLeavesTheLineLow : Prop :=
  ∀ s t : State, BlockOK s → LineOK s → s.cfg.rangePolicy = .reject → s.done = true → tick s = .next t →
    t.dout = false ∧ t.stream = s.stream ∧ t.done = true

/-- R137, R138: from the falling edge of the last data pulse on, the line of a show is low: the rest of the last data cell
and every tick of the gap cells, `(PERIOD - w) + GAP * PERIOD` ticks of the frame at least, and whatever follows. -/
def Obligations.GapIsLowOnTheLine : Prop :=
  ∀ s : State, BlockOK s → LineOK s → s.cfg.rangePolicy = .reject → s.timEn = true →
    (∀ n, ledEnd s.cfg * s.cfg.period ≤ n → n < (s.lineOf s.showNo).length →
      (s.lineOf s.showNo)[n]? = some false)
    ∧ (1 ≤ s.cfg.n → ∀ n, (ledEnd s.cfg - 1) * s.cfg.period + (s.readByte (ledEnd s.cfg - 1)).toNat ≤ n →
        n < (s.lineOf s.showNo).length → (s.lineOf s.showNo)[n]? = some false)

/-- R143: the byte of every cell of a finished frame is the number of high ticks of its cell, for bytes below `PERIOD`; so the
bytes of a written slice are read back from the line. -/
def Obligations.FrameIsReadBackFromTheLine : Prop :=
  ∀ s : State, BlockOK s → LineOK s → s.txState = .draining .returnToIdle →
    (∀ k, k < bufLen s.cfg → (s.readByte k).toNat < s.cfg.period →
      highTicks s.cfg.period k (s.lineOf s.showNo) = (s.readByte k).toNat)
    ∧ (AllWritten s → ∀ i, i < s.cfg.n →
        ((List.range 24).map fun j => BitVec.ofNat 8 (highTicks s.cfg.period (i * 24 + j) (s.lineOf s.showNo)))
          = s.slice i)

/-- R23, R74, R198: the contents of the buffer reach the line and its histories only. Two states that differ in the buffer,
the compare register, the pin and the two histories alone stay so: a step stops in both or in neither, for the same reason,
and every response and every other register is the same. -/
def Obligations.BufferContentsReachOnlyTheLine : Prop :=
  ∀ (s : State) (mem : List Host.Cell) (ccr : Byte) (dout : Bool) (stream : List (Nat × Byte)) (line : List (Nat × Bool)),
    match step s, step { s with mem := mem, ccr := ccr, dout := dout, stream := stream, line := line } with
    | .next t, .next t' =>
      t' = { t with mem := t'.mem, ccr := t'.ccr, dout := t'.dout, stream := t'.stream, line := t'.line }
    | .fault r, .fault r' => r = r'
    | .refused r, .refused r' => r = r'
    | _, _ => False

/-- R118, R183, R199: termination needs `ParamsOK` and `FairTicks` and nothing else. On every run that starts after a reset
with legal parameters, and with fair ticks, the block is in `Idle` again and again: no show lasts for ever. The same holds of a
run from any state of the invariant. That the driver takes its steps is part of what a run is (`IsRun`, log entry 15). -/
def Obligations.ShowEndsOnEveryFairRun : Prop :=
  (∀ r : Nat → State, IsRun r → AfterReset (r 0) → paramsOK (r 0).cfg = true → FairTicks r →
    ∀ n, ∃ m, n ≤ m ∧ (r m).txState = .idle)
  ∧ ∀ r : Nat → State, IsRun r → BlockOK (r 0) → FairTicks r → ∀ n, ∃ m, n ≤ m ∧ (r m).txState = .idle
end

