-- ==== Sys2Proof/Laws/Decode.lean ====
section
/-! SUPPORT. What the decoder's parts do: a word is its four fields, and which fields are legal. -/

namespace Sys2Proof

/-- The number of two joined bit vectors. -/
theorem toNat_append_eq {m n : Nat} (x : BitVec m) (y : BitVec n) : (x ++ y).toNat = x.toNat * 2 ^ n + y.toNat := by
  rw [BitVec.toNat_append, ← Nat.shiftLeft_add_eq_or_of_lt y.isLt, Nat.shiftLeft_eq]

/-- The number of a command word, from its fields (30_encoding.md R71). -/
theorem wordOfFields_toNat (f : Fields) :
    (wordOfFields f).toNat
      = ((f.op.toNat * 2 ^ 4 + f.rsv.toNat) * 2 ^ 16 + f.index.toNat) * 2 ^ 24 + f.data.toNat := by
  show (f.op ++ f.rsv ++ f.index ++ f.data : BitVec (4 + 4 + 16 + 24)).toNat = _
  rw [toNat_append_eq, toNat_append_eq, toNat_append_eq]

/-- The number of a packed colour, from its channels (30_encoding.md R75). -/
theorem packColour_toNat (r g b : Byte) :
    (packColour r g b).toNat = (r.toNat * 2 ^ 8 + g.toNat) * 2 ^ 8 + b.toNat := by
  show (r ++ g ++ b : BitVec (8 + 8 + 8)).toNat = _
  rw [toNat_append_eq, toNat_append_eq]

/-- The fields of the word of four fields are those fields. -/
theorem fieldsOf_wordOfFields (f : Fields) : fieldsOf (wordOfFields f) = f := by
  have h := wordOfFields_toNat f
  have h1 := f.op.isLt
  have h2 := f.rsv.isLt
  have h3 := f.index.isLt
  have h4 := f.data.isLt
  cases f
  simp only [fieldsOf, Fields.mk.injEq] at *
  refine ⟨?_, ?_, ?_, ?_⟩ <;> apply BitVec.eq_of_toNat_eq <;>
    rw [BitVec.extractLsb'_toNat, h, Nat.shiftRight_eq_div_pow] <;> omega

/-- A word is the word of its fields. -/
theorem wordOfFields_fieldsOf (w : CmdWord) : wordOfFields (fieldsOf w) = w := by
  apply BitVec.eq_of_toNat_eq
  rw [wordOfFields_toNat]
  have := w.isLt
  simp only [fieldsOf, BitVec.extractLsb'_toNat, Nat.shiftRight_eq_div_pow]
  omega

/-- When the legality check passes, and with which operation (30_encoding.md R81). -/
theorem check_eq_ok_iff (f : Fields) (op : Opcode) :
    f.check = .ok op ↔ Opcode.ofBits f.op = some op ∧ f.rsv = 0 ∧ (op.takesIndex = false → f.index = 0)
      ∧ (op.takesData = false → f.data = 0) := by
  unfold Fields.check
  split
  · rename_i h; simp [h]
  · rename_i op' h
    rw [h]
    split
    · simp_all
    split
    · simp only [reduceCtorEq, false_iff]; rintro ⟨h, -, h2, -⟩; cases h; simp_all
    split
    · simp only [reduceCtorEq, false_iff]; rintro ⟨h, -, -, h2⟩; cases h; simp_all
    · simp only [Except.ok.injEq, Option.some.injEq]
      constructor
      · rintro rfl; simp_all
      · exact fun h => h.1

/-- Every check ends in an operation or in a reason. -/
theorem check_ok_or_error (f : Fields) : (∃ op, f.check = .ok op) ∨ ∃ e, f.check = .error e := by
  cases f.check with
  | ok op => exact .inl ⟨op, rfl⟩
  | error e => exact .inr ⟨e, rfl⟩

end Sys2Proof
end

