-- ==== Sys2Proof/Laws/Memory.lean ====
section
/-! SUPPORT. Reads after writes of the frame buffer, and that every memory operation keeps the canonical form. -/

namespace Sys2Proof.Machine

/-- What a read of the list gives: the listed byte, else what an unlisted address reads as. -/
def Memory.view (p : Params) (m : List Host.Cell) (a : Nat) : Option Byte :=
  match Memory.lookup m a with
  | some v => some v
  | none => Memory.unlisted p a

theorem Memory.lookup_insert (m : List Host.Cell) (a : Nat) (v : Byte) (x : Nat) :
    Memory.lookup (Memory.insert m a v) x = if a = x then some v else Memory.lookup m x := by
  induction m with
  | nil => simp [Memory.insert, Memory.lookup]
  | cons c m ih =>
    unfold Memory.insert
    split
    · simp [Memory.lookup]
    · split
      · subst_vars
        simp only [Memory.lookup]
        split <;> simp_all
      · simp only [Memory.lookup, ih]
        split
        · rw [if_neg (by omega)]
        · rfl

theorem Memory.lookup_erase (m : List Host.Cell) (a x : Nat) :
    Memory.lookup (Memory.erase m a) x = if a = x then none else Memory.lookup m x := by
  induction m with
  | nil => simp [Memory.erase, Memory.lookup]
  | cons c m ih =>
    unfold Memory.erase at ih ⊢
    by_cases hc : c.1 = a
    · simp only [List.filter_cons, hc, ne_eq, not_true_eq_false, decide_false, Bool.false_eq_true, if_false, ih,
        Memory.lookup]
      split <;> simp_all
    · simp only [List.filter_cons, hc, ne_eq, not_false_eq_true, decide_true, if_true, Memory.lookup, ih]
      split
      · rw [if_neg (by omega)]
      · rfl

/-- A read after a store: the stored byte at its address, every other address as before. -/
theorem Memory.view_store (p : Params) (m : List Host.Cell) (c : Host.Cell) (x : Nat) :
    Memory.view p (Memory.store p m c) x = if c.1 = x then some c.2 else Memory.view p m x := by
  by_cases hu : Memory.unlisted p c.1 = some c.2
  · simp only [Memory.store, if_pos hu, Memory.view, Memory.lookup_erase]
    by_cases hx : c.1 = x
    · subst hx
      simp [hu]
    · simp [hx]
  · simp only [Memory.store, if_neg hu, Memory.view, Memory.lookup_insert]
    by_cases hx : c.1 = x <;> simp [hx]

/-- An address that no store names reads as before. -/
theorem Memory.view_storeAll_of_not_mem (p : Params) (cs m : List Host.Cell) (x : Nat) (h : ∀ c ∈ cs, c.1 ≠ x) :
    Memory.view p (Memory.storeAll p m cs) x = Memory.view p m x := by
  induction cs generalizing m with
  | nil => rfl
  | cons c cs ih =>
    simp only [Memory.storeAll, List.foldl_cons] at ih ⊢
    rw [ih _ fun d hd => h d (by simp [hd]), Memory.view_store, if_neg (h c (by simp))]

/-- An address that stores name, all with one value, reads as that value. -/
theorem Memory.view_storeAll_of_mem (p : Params) (cs m : List Host.Cell) (x : Nat) (v : Byte)
    (hx : ∃ c ∈ cs, c.1 = x) (hv : ∀ c ∈ cs, c.1 = x → c.2 = v) :
    Memory.view p (Memory.storeAll p m cs) x = some v := by
  induction cs generalizing m with
  | nil => simp at hx
  | cons c cs ih =>
    by_cases hlater : ∃ d ∈ cs, d.1 = x
    · exact ih _ hlater fun d hd => hv d (by simp [hd])
    · have hcx : c.1 = x := by
        obtain ⟨d, hd, hdx⟩ := hx
        rcases List.mem_cons.1 hd with rfl | hd
        · exact hdx
        · exact absurd ⟨d, hd, hdx⟩ hlater
      have hnot : ∀ d ∈ cs, d.1 ≠ x := fun d hd hdx => hlater ⟨d, hd, hdx⟩
      have := Memory.view_storeAll_of_not_mem p cs (Memory.store p m c) x hnot
      simp only [Memory.storeAll, List.foldl_cons] at this ⊢
      rw [this, Memory.view_store, if_pos hcx, hv c (by simp) hcx]

theorem Memory.mem_insert {m : List Host.Cell} {a : Nat} {v : Byte} {c : Host.Cell} (h : c ∈ Memory.insert m a v) :
    c = (a, v) ∨ c ∈ m := by
  induction m with
  | nil => simpa [Memory.insert] using h
  | cons d m ih =>
    unfold Memory.insert at h
    split at h
    · simpa using h
    · split at h
      · rcases List.mem_cons.1 h with h | h
        · exact .inl h
        · exact .inr (by simp [h])
      · rcases List.mem_cons.1 h with h | h
        · exact .inr (by simp [h])
        · rcases ih h with h | h
          · exact .inl h
          · exact .inr (by simp [h])

theorem Memory.insert_rising {m : List Host.Cell} (a : Nat) (v : Byte)
    (h : m.Pairwise fun c d => c.1 < d.1) : (Memory.insert m a v).Pairwise fun c d => c.1 < d.1 := by
  induction m with
  | nil => simp [Memory.insert]
  | cons c m ih =>
    obtain ⟨hc, hm⟩ := List.pairwise_cons.1 h
    unfold Memory.insert
    split
    · refine List.pairwise_cons.2 ⟨fun d hd => ?_, h⟩
      rcases List.mem_cons.1 hd with rfl | hd
      · assumption
      · have := hc d hd
        simp only
        omega
    · split
      · subst_vars
        exact List.pairwise_cons.2 ⟨fun d hd => hc d hd, hm⟩
      · refine List.pairwise_cons.2 ⟨fun d hd => ?_, ih hm⟩
        rcases Memory.mem_insert hd with rfl | hd
        · simp only
          omega
        · exact hc d hd

/-- A store inside the buffer keeps the canonical form. -/
theorem Memory.store_wf {p : Params} {m : List Host.Cell} {c : Host.Cell} (h : Memory.wf p m)
    (hc : c.1 < bufLen p) : Memory.wf p (Memory.store p m c) := by
  obtain ⟨hr, hm⟩ := h
  unfold Memory.store
  split
  · exact ⟨hr.filter _, fun d hd => hm d (List.mem_filter.1 hd).1⟩
  · refine ⟨Memory.insert_rising _ _ hr, fun d hd => ?_⟩
    rcases Memory.mem_insert hd with rfl | hd
    · exact ⟨hc, by assumption⟩
    · exact hm d hd

/-- Stores inside the buffer keep the canonical form. -/
theorem Memory.storeAll_wf {p : Params} (cs : List Host.Cell) {m : List Host.Cell} (h : Memory.wf p m)
    (hc : ∀ c ∈ cs, c.1 < bufLen p) : Memory.wf p (Memory.storeAll p m cs) := by
  induction cs generalizing m with
  | nil => exact h
  | cons c cs ih => exact ih (Memory.store_wf h (hc c (by simp))) fun d hd => hc d (by simp [hd])

/-- The reset memory lists nothing and has the canonical form. -/
theorem Memory.nil_wf (p : Params) : Memory.wf p [] := ⟨.nil, fun _ h => by simp at h⟩

theorem Memory.lookup_eq_some_of_mem {m : List Host.Cell} {c : Host.Cell} (h : m.Pairwise fun c d => c.1 < d.1)
    (hc : c ∈ m) : Memory.lookup m c.1 = some c.2 := by
  induction m with
  | nil => simp at hc
  | cons d m ih =>
    obtain ⟨hd, hm⟩ := List.pairwise_cons.1 h
    unfold Memory.lookup
    rcases List.mem_cons.1 hc with rfl | hc
    · simp
    · rw [if_neg (by have := hd c hc; omega), ih hm hc]

theorem Memory.mem_of_lookup {m : List Host.Cell} {a : Nat} {v : Byte} (h : Memory.lookup m a = some v) : (a, v) ∈ m := by
  induction m with
  | nil => simp [Memory.lookup] at h
  | cons d m ih =>
    unfold Memory.lookup at h
    split at h
    · obtain rfl := Option.some.inj h
      subst_vars
      simp
    · simp [ih h]

/-- Canonical memories that list the same bytes are the same data. -/
theorem Memory.ext_of_lookup {m m' : List Host.Cell} (h : m.Pairwise fun c d => c.1 < d.1)
    (h' : m'.Pairwise fun c d => c.1 < d.1) (hl : ∀ a, Memory.lookup m a = Memory.lookup m' a) : m = m' := by
  have hperm : m.Perm m' := by
    refine (List.perm_ext_iff_of_nodup (h.imp fun hlt he => ?_) (h'.imp fun hlt he => ?_)).2 fun c => ⟨fun hc => ?_, fun hc => ?_⟩
    · exact absurd (he ▸ hlt) (Nat.lt_irrefl _)
    · exact absurd (he ▸ hlt) (Nat.lt_irrefl _)
    · exact Memory.mem_of_lookup (hl c.1 ▸ Memory.lookup_eq_some_of_mem h hc)
    · exact Memory.mem_of_lookup ((hl c.1).symm ▸ Memory.lookup_eq_some_of_mem h' hc)
  exact hperm.eq_of_pairwise (fun a b _ _ hab hba => by omega) h h'

/-- Canonical memories of one instance that read alike are the same data. -/
theorem Memory.ext_of_view {p : Params} {m m' : List Host.Cell} (h : Memory.wf p m) (h' : Memory.wf p m')
    (hv : ∀ a, Memory.view p m a = Memory.view p m' a) : m = m' := by
  refine Memory.ext_of_lookup h.1 h'.1 fun a => ?_
  have := hv a
  unfold Memory.view at this
  cases hm : Memory.lookup m a with
  | some v =>
    cases hm' : Memory.lookup m' a with
    | some w => simpa [hm, hm'] using this
    | none =>
      simp only [hm, hm'] at this
      exact absurd this.symm (h.2 _ (Memory.mem_of_lookup hm)).2
  | none =>
    cases hm' : Memory.lookup m' a with
    | some w =>
      simp only [hm, hm'] at this
      exact absurd this (h'.2 _ (Memory.mem_of_lookup hm')).2
    | none => rfl

end Sys2Proof.Machine
end

