-- ==== Sys2Proof/Laws/State.lean ====
section
/-! SUPPORT. The fields of the named updates of the state, one lemma per field per update. -/

namespace Sys2Proof.Machine

variable (s : State)

/-! ## State.withMem -/

@[simp] theorem State.withMem_cfg (m : List Host.Cell) : (s.withMem m).cfg = s.cfg := rfl
@[simp] theorem State.withMem_mem (m : List Host.Cell) : (s.withMem m).mem = m := rfl
@[simp] theorem State.withMem_txState (m : List Host.Cell) : (s.withMem m).txState = s.txState := rfl
@[simp] theorem State.withMem_timEn (m : List Host.Cell) : (s.withMem m).timEn = s.timEn := rfl
@[simp] theorem State.withMem_cnt (m : List Host.Cell) : (s.withMem m).cnt = s.cnt := rfl
@[simp] theorem State.withMem_ccr (m : List Host.Cell) : (s.withMem m).ccr = s.ccr := rfl
@[simp] theorem State.withMem_dmaEn (m : List Host.Cell) : (s.withMem m).dmaEn = s.dmaEn := rfl
@[simp] theorem State.withMem_dmaPtr (m : List Host.Cell) : (s.withMem m).dmaPtr = s.dmaPtr := rfl
@[simp] theorem State.withMem_dmaCnt (m : List Host.Cell) : (s.withMem m).dmaCnt = s.dmaCnt := rfl
@[simp] theorem State.withMem_done (m : List Host.Cell) : (s.withMem m).done = s.done := rfl
@[simp] theorem State.withMem_dout (m : List Host.Cell) : (s.withMem m).dout = s.dout := rfl
@[simp] theorem State.withMem_err (m : List Host.Cell) : (s.withMem m).err = s.err := rfl
@[simp] theorem State.withMem_showNo (m : List Host.Cell) : (s.withMem m).showNo = s.showNo := rfl
@[simp] theorem State.withMem_stream (m : List Host.Cell) : (s.withMem m).stream = s.stream := rfl
@[simp] theorem State.withMem_line (m : List Host.Cell) : (s.withMem m).line = s.line := rfl
@[simp] theorem State.withMem_held (m : List Host.Cell) : (s.withMem m).held = s.held := rfl
@[simp] theorem State.withMem_responses (m : List Host.Cell) : (s.withMem m).responses = s.responses := rfl
@[simp] theorem State.withMem_program (m : List Host.Cell) : (s.withMem m).program = s.program := rfl
@[simp] theorem State.withMem_resets (m : List Host.Cell) : (s.withMem m).resets = s.resets := rfl
@[simp] theorem State.withMem_sched (m : List Host.Cell) : (s.withMem m).sched = s.sched := rfl
@[simp] theorem State.withMem_moveNo (m : List Host.Cell) : (s.withMem m).moveNo = s.moveNo := rfl
@[simp] theorem State.withMem_outside (m : List Host.Cell) : (s.withMem m).outside = s.outside := rfl

/-! ## State.afterWrites -/

@[simp] theorem State.afterWrites_cfg (cs : List Host.Cell) : (s.afterWrites cs).cfg = s.cfg := rfl
@[simp] theorem State.afterWrites_mem (cs : List Host.Cell) : (s.afterWrites cs).mem = Memory.storeAll s.cfg s.mem (cellsInside s.cfg cs) := rfl
@[simp] theorem State.afterWrites_txState (cs : List Host.Cell) : (s.afterWrites cs).txState = s.txState := rfl
@[simp] theorem State.afterWrites_timEn (cs : List Host.Cell) : (s.afterWrites cs).timEn = s.timEn := rfl
@[simp] theorem State.afterWrites_cnt (cs : List Host.Cell) : (s.afterWrites cs).cnt = s.cnt := rfl
@[simp] theorem State.afterWrites_ccr (cs : List Host.Cell) : (s.afterWrites cs).ccr = s.ccr := rfl
@[simp] theorem State.afterWrites_dmaEn (cs : List Host.Cell) : (s.afterWrites cs).dmaEn = s.dmaEn := rfl
@[simp] theorem State.afterWrites_dmaPtr (cs : List Host.Cell) : (s.afterWrites cs).dmaPtr = s.dmaPtr := rfl
@[simp] theorem State.afterWrites_dmaCnt (cs : List Host.Cell) : (s.afterWrites cs).dmaCnt = s.dmaCnt := rfl
@[simp] theorem State.afterWrites_done (cs : List Host.Cell) : (s.afterWrites cs).done = s.done := rfl
@[simp] theorem State.afterWrites_dout (cs : List Host.Cell) : (s.afterWrites cs).dout = s.dout := rfl
@[simp] theorem State.afterWrites_err (cs : List Host.Cell) : (s.afterWrites cs).err = s.err := rfl
@[simp] theorem State.afterWrites_showNo (cs : List Host.Cell) : (s.afterWrites cs).showNo = s.showNo := rfl
@[simp] theorem State.afterWrites_stream (cs : List Host.Cell) : (s.afterWrites cs).stream = s.stream := rfl
@[simp] theorem State.afterWrites_line (cs : List Host.Cell) : (s.afterWrites cs).line = s.line := rfl
@[simp] theorem State.afterWrites_held (cs : List Host.Cell) : (s.afterWrites cs).held = s.held := rfl
@[simp] theorem State.afterWrites_responses (cs : List Host.Cell) : (s.afterWrites cs).responses = s.responses := rfl
@[simp] theorem State.afterWrites_program (cs : List Host.Cell) : (s.afterWrites cs).program = s.program := rfl
@[simp] theorem State.afterWrites_resets (cs : List Host.Cell) : (s.afterWrites cs).resets = s.resets := rfl
@[simp] theorem State.afterWrites_sched (cs : List Host.Cell) : (s.afterWrites cs).sched = s.sched := rfl
@[simp] theorem State.afterWrites_moveNo (cs : List Host.Cell) : (s.afterWrites cs).moveNo = s.moveNo := rfl
@[simp] theorem State.afterWrites_outside (cs : List Host.Cell) : (s.afterWrites cs).outside = s.outside ++ cellsOutside s.cfg cs := rfl

/-! ## State.respond -/

@[simp] theorem State.respond_cfg (st : BitVec 4) (r : Packed) : (s.respond st r).cfg = s.cfg := rfl
@[simp] theorem State.respond_mem (st : BitVec 4) (r : Packed) : (s.respond st r).mem = s.mem := rfl
@[simp] theorem State.respond_txState (st : BitVec 4) (r : Packed) : (s.respond st r).txState = s.txState := rfl
@[simp] theorem State.respond_timEn (st : BitVec 4) (r : Packed) : (s.respond st r).timEn = s.timEn := rfl
@[simp] theorem State.respond_cnt (st : BitVec 4) (r : Packed) : (s.respond st r).cnt = s.cnt := rfl
@[simp] theorem State.respond_ccr (st : BitVec 4) (r : Packed) : (s.respond st r).ccr = s.ccr := rfl
@[simp] theorem State.respond_dmaEn (st : BitVec 4) (r : Packed) : (s.respond st r).dmaEn = s.dmaEn := rfl
@[simp] theorem State.respond_dmaPtr (st : BitVec 4) (r : Packed) : (s.respond st r).dmaPtr = s.dmaPtr := rfl
@[simp] theorem State.respond_dmaCnt (st : BitVec 4) (r : Packed) : (s.respond st r).dmaCnt = s.dmaCnt := rfl
@[simp] theorem State.respond_done (st : BitVec 4) (r : Packed) : (s.respond st r).done = s.done := rfl
@[simp] theorem State.respond_dout (st : BitVec 4) (r : Packed) : (s.respond st r).dout = s.dout := rfl
@[simp] theorem State.respond_err (st : BitVec 4) (r : Packed) : (s.respond st r).err = s.err := rfl
@[simp] theorem State.respond_showNo (st : BitVec 4) (r : Packed) : (s.respond st r).showNo = s.showNo := rfl
@[simp] theorem State.respond_stream (st : BitVec 4) (r : Packed) : (s.respond st r).stream = s.stream := rfl
@[simp] theorem State.respond_line (st : BitVec 4) (r : Packed) : (s.respond st r).line = s.line := rfl
@[simp] theorem State.respond_held (st : BitVec 4) (r : Packed) : (s.respond st r).held = s.held := rfl
@[simp] theorem State.respond_responses (st : BitVec 4) (r : Packed) : (s.respond st r).responses = s.responses ++ [responseWord st r] := rfl
@[simp] theorem State.respond_program (st : BitVec 4) (r : Packed) : (s.respond st r).program = s.program := rfl
@[simp] theorem State.respond_resets (st : BitVec 4) (r : Packed) : (s.respond st r).resets = s.resets := rfl
@[simp] theorem State.respond_sched (st : BitVec 4) (r : Packed) : (s.respond st r).sched = s.sched := rfl
@[simp] theorem State.respond_moveNo (st : BitVec 4) (r : Packed) : (s.respond st r).moveNo = s.moveNo := rfl
@[simp] theorem State.respond_outside (st : BitVec 4) (r : Packed) : (s.respond st r).outside = s.outside := rfl

/-! ## State.raise -/

@[simp] theorem State.raise_cfg (f : CommandFault) : (s.raise f).cfg = s.cfg := rfl
@[simp] theorem State.raise_mem (f : CommandFault) : (s.raise f).mem = s.mem := rfl
@[simp] theorem State.raise_txState (f : CommandFault) : (s.raise f).txState = s.txState := rfl
@[simp] theorem State.raise_timEn (f : CommandFault) : (s.raise f).timEn = s.timEn := rfl
@[simp] theorem State.raise_cnt (f : CommandFault) : (s.raise f).cnt = s.cnt := rfl
@[simp] theorem State.raise_ccr (f : CommandFault) : (s.raise f).ccr = s.ccr := rfl
@[simp] theorem State.raise_dmaEn (f : CommandFault) : (s.raise f).dmaEn = s.dmaEn := rfl
@[simp] theorem State.raise_dmaPtr (f : CommandFault) : (s.raise f).dmaPtr = s.dmaPtr := rfl
@[simp] theorem State.raise_dmaCnt (f : CommandFault) : (s.raise f).dmaCnt = s.dmaCnt := rfl
@[simp] theorem State.raise_done (f : CommandFault) : (s.raise f).done = s.done := rfl
@[simp] theorem State.raise_dout (f : CommandFault) : (s.raise f).dout = s.dout := rfl
@[simp] theorem State.raise_err (f : CommandFault) : (s.raise f).err = s.err ||| f.flag := rfl
@[simp] theorem State.raise_showNo (f : CommandFault) : (s.raise f).showNo = s.showNo := rfl
@[simp] theorem State.raise_stream (f : CommandFault) : (s.raise f).stream = s.stream := rfl
@[simp] theorem State.raise_line (f : CommandFault) : (s.raise f).line = s.line := rfl
@[simp] theorem State.raise_held (f : CommandFault) : (s.raise f).held = s.held := rfl
@[simp] theorem State.raise_responses (f : CommandFault) : (s.raise f).responses = s.responses ++ [responseWord f.code 0] := rfl
@[simp] theorem State.raise_program (f : CommandFault) : (s.raise f).program = s.program := rfl
@[simp] theorem State.raise_resets (f : CommandFault) : (s.raise f).resets = s.resets := rfl
@[simp] theorem State.raise_sched (f : CommandFault) : (s.raise f).sched = s.sched := rfl
@[simp] theorem State.raise_moveNo (f : CommandFault) : (s.raise f).moveNo = s.moveNo := rfl
@[simp] theorem State.raise_outside (f : CommandFault) : (s.raise f).outside = s.outside := rfl

/-! ## State.takeHeld -/

@[simp] theorem State.takeHeld_cfg : (s.takeHeld).cfg = s.cfg := rfl
@[simp] theorem State.takeHeld_mem : (s.takeHeld).mem = s.mem := rfl
@[simp] theorem State.takeHeld_txState : (s.takeHeld).txState = s.txState := rfl
@[simp] theorem State.takeHeld_timEn : (s.takeHeld).timEn = s.timEn := rfl
@[simp] theorem State.takeHeld_cnt : (s.takeHeld).cnt = s.cnt := rfl
@[simp] theorem State.takeHeld_ccr : (s.takeHeld).ccr = s.ccr := rfl
@[simp] theorem State.takeHeld_dmaEn : (s.takeHeld).dmaEn = s.dmaEn := rfl
@[simp] theorem State.takeHeld_dmaPtr : (s.takeHeld).dmaPtr = s.dmaPtr := rfl
@[simp] theorem State.takeHeld_dmaCnt : (s.takeHeld).dmaCnt = s.dmaCnt := rfl
@[simp] theorem State.takeHeld_done : (s.takeHeld).done = s.done := rfl
@[simp] theorem State.takeHeld_dout : (s.takeHeld).dout = s.dout := rfl
@[simp] theorem State.takeHeld_err : (s.takeHeld).err = s.err := rfl
@[simp] theorem State.takeHeld_showNo : (s.takeHeld).showNo = s.showNo := rfl
@[simp] theorem State.takeHeld_stream : (s.takeHeld).stream = s.stream := rfl
@[simp] theorem State.takeHeld_line : (s.takeHeld).line = s.line := rfl
@[simp] theorem State.takeHeld_held : (s.takeHeld).held = none := rfl
@[simp] theorem State.takeHeld_responses : (s.takeHeld).responses = s.responses := rfl
@[simp] theorem State.takeHeld_program : (s.takeHeld).program = s.program := rfl
@[simp] theorem State.takeHeld_resets : (s.takeHeld).resets = s.resets := rfl
@[simp] theorem State.takeHeld_sched : (s.takeHeld).sched = s.sched := rfl
@[simp] theorem State.takeHeld_moveNo : (s.takeHeld).moveNo = s.moveNo := rfl
@[simp] theorem State.takeHeld_outside : (s.takeHeld).outside = s.outside := rfl

/-! ## startDraining -/

@[simp] theorem startDraining_cfg : (startDraining s).cfg = s.cfg := rfl
@[simp] theorem startDraining_mem : (startDraining s).mem = s.mem := rfl
@[simp] theorem startDraining_txState : (startDraining s).txState = .draining .poll := rfl
@[simp] theorem startDraining_timEn : (startDraining s).timEn = s.timEn := rfl
@[simp] theorem startDraining_cnt : (startDraining s).cnt = s.cnt := rfl
@[simp] theorem startDraining_ccr : (startDraining s).ccr = s.ccr := rfl
@[simp] theorem startDraining_dmaEn : (startDraining s).dmaEn = s.dmaEn := rfl
@[simp] theorem startDraining_dmaPtr : (startDraining s).dmaPtr = s.dmaPtr := rfl
@[simp] theorem startDraining_dmaCnt : (startDraining s).dmaCnt = s.dmaCnt := rfl
@[simp] theorem startDraining_done : (startDraining s).done = s.done := rfl
@[simp] theorem startDraining_dout : (startDraining s).dout = s.dout := rfl
@[simp] theorem startDraining_err : (startDraining s).err = s.err := rfl
@[simp] theorem startDraining_showNo : (startDraining s).showNo = s.showNo := rfl
@[simp] theorem startDraining_stream : (startDraining s).stream = s.stream := rfl
@[simp] theorem startDraining_line : (startDraining s).line = s.line := rfl
@[simp] theorem startDraining_held : (startDraining s).held = s.held := rfl
@[simp] theorem startDraining_responses : (startDraining s).responses = s.responses := rfl
@[simp] theorem startDraining_program : (startDraining s).program = s.program := rfl
@[simp] theorem startDraining_resets : (startDraining s).resets = s.resets := rfl
@[simp] theorem startDraining_sched : (startDraining s).sched = s.sched := rfl
@[simp] theorem startDraining_moveNo : (startDraining s).moveNo = s.moveNo := rfl
@[simp] theorem startDraining_outside : (startDraining s).outside = s.outside := rfl

/-! ## driverReturn -/

@[simp] theorem driverReturn_cfg : (driverReturn s).cfg = s.cfg := rfl
@[simp] theorem driverReturn_mem : (driverReturn s).mem = s.mem := rfl
@[simp] theorem driverReturn_txState : (driverReturn s).txState = .idle := rfl
@[simp] theorem driverReturn_timEn : (driverReturn s).timEn = s.timEn := rfl
@[simp] theorem driverReturn_cnt : (driverReturn s).cnt = s.cnt := rfl
@[simp] theorem driverReturn_ccr : (driverReturn s).ccr = s.ccr := rfl
@[simp] theorem driverReturn_dmaEn : (driverReturn s).dmaEn = s.dmaEn := rfl
@[simp] theorem driverReturn_dmaPtr : (driverReturn s).dmaPtr = s.dmaPtr := rfl
@[simp] theorem driverReturn_dmaCnt : (driverReturn s).dmaCnt = s.dmaCnt := rfl
@[simp] theorem driverReturn_done : (driverReturn s).done = s.done := rfl
@[simp] theorem driverReturn_dout : (driverReturn s).dout = s.dout := rfl
@[simp] theorem driverReturn_err : (driverReturn s).err = s.err := rfl
@[simp] theorem driverReturn_showNo : (driverReturn s).showNo = s.showNo := rfl
@[simp] theorem driverReturn_stream : (driverReturn s).stream = s.stream := rfl
@[simp] theorem driverReturn_line : (driverReturn s).line = s.line := rfl
@[simp] theorem driverReturn_held : (driverReturn s).held = s.held := rfl
@[simp] theorem driverReturn_responses : (driverReturn s).responses = s.responses ++ [responseWord statusOk 0] := rfl
@[simp] theorem driverReturn_program : (driverReturn s).program = s.program := rfl
@[simp] theorem driverReturn_resets : (driverReturn s).resets = s.resets := rfl
@[simp] theorem driverReturn_sched : (driverReturn s).sched = s.sched := rfl
@[simp] theorem driverReturn_moveNo : (driverReturn s).moveNo = s.moveNo := rfl
@[simp] theorem driverReturn_outside : (driverReturn s).outside = s.outside := rfl

/-! ## driveTick -/

@[simp] theorem driveTick_cfg : (driveTick s).cfg = s.cfg := rfl
@[simp] theorem driveTick_mem : (driveTick s).mem = s.mem := rfl
@[simp] theorem driveTick_txState : (driveTick s).txState = s.txState := rfl
@[simp] theorem driveTick_timEn : (driveTick s).timEn = s.timEn := rfl
@[simp] theorem driveTick_cnt : (driveTick s).cnt = (s.cnt + 1) % s.cfg.period := rfl
@[simp] theorem driveTick_ccr : (driveTick s).ccr = s.ccr := rfl
@[simp] theorem driveTick_dmaEn : (driveTick s).dmaEn = s.dmaEn := rfl
@[simp] theorem driveTick_dmaPtr : (driveTick s).dmaPtr = s.dmaPtr := rfl
@[simp] theorem driveTick_dmaCnt : (driveTick s).dmaCnt = s.dmaCnt := rfl
@[simp] theorem driveTick_done : (driveTick s).done = s.done := rfl
@[simp] theorem driveTick_dout : (driveTick s).dout = wave s.ccr s.cnt := rfl
@[simp] theorem driveTick_err : (driveTick s).err = s.err := rfl
@[simp] theorem driveTick_showNo : (driveTick s).showNo = s.showNo := rfl
@[simp] theorem driveTick_stream : (driveTick s).stream = s.stream := rfl
@[simp] theorem driveTick_line : (driveTick s).line = s.line ++ [(s.showNo, wave s.ccr s.cnt)] := rfl
@[simp] theorem driveTick_held : (driveTick s).held = s.held := rfl
@[simp] theorem driveTick_responses : (driveTick s).responses = s.responses := rfl
@[simp] theorem driveTick_program : (driveTick s).program = s.program := rfl
@[simp] theorem driveTick_resets : (driveTick s).resets = s.resets := rfl
@[simp] theorem driveTick_sched : (driveTick s).sched = s.sched := rfl
@[simp] theorem driveTick_moveNo : (driveTick s).moveNo = s.moveNo := rfl
@[simp] theorem driveTick_outside : (driveTick s).outside = s.outside := rfl

/-! ## State.beginShow -/

@[simp] theorem State.beginShow_cfg : (s.beginShow).cfg = s.cfg := rfl
@[simp] theorem State.beginShow_mem : (s.beginShow).mem = s.mem := rfl
@[simp] theorem State.beginShow_txState : (s.beginShow).txState = .arming .resetCounter := rfl
@[simp] theorem State.beginShow_timEn : (s.beginShow).timEn = s.timEn := rfl
@[simp] theorem State.beginShow_cnt : (s.beginShow).cnt = s.cnt := rfl
@[simp] theorem State.beginShow_ccr : (s.beginShow).ccr = s.ccr := rfl
@[simp] theorem State.beginShow_dmaEn : (s.beginShow).dmaEn = s.dmaEn := rfl
@[simp] theorem State.beginShow_dmaPtr : (s.beginShow).dmaPtr = s.dmaPtr := rfl
@[simp] theorem State.beginShow_dmaCnt : (s.beginShow).dmaCnt = s.dmaCnt := rfl
@[simp] theorem State.beginShow_done : (s.beginShow).done = s.done := rfl
@[simp] theorem State.beginShow_dout : (s.beginShow).dout = s.dout := rfl
@[simp] theorem State.beginShow_err : (s.beginShow).err = s.err := rfl
@[simp] theorem State.beginShow_showNo : (s.beginShow).showNo = s.showNo + 1 := rfl
@[simp] theorem State.beginShow_stream : (s.beginShow).stream = s.stream := rfl
@[simp] theorem State.beginShow_line : (s.beginShow).line = s.line := rfl
@[simp] theorem State.beginShow_held : (s.beginShow).held = s.held := rfl
@[simp] theorem State.beginShow_responses : (s.beginShow).responses = s.responses := rfl
@[simp] theorem State.beginShow_program : (s.beginShow).program = s.program := rfl
@[simp] theorem State.beginShow_resets : (s.beginShow).resets = s.resets := rfl
@[simp] theorem State.beginShow_sched : (s.beginShow).sched = s.sched := rfl
@[simp] theorem State.beginShow_moveNo : (s.beginShow).moveNo = s.moveNo := rfl
@[simp] theorem State.beginShow_outside : (s.beginShow).outside = s.outside := rfl

/-! ## State.raiseDone -/

@[simp] theorem State.raiseDone_cfg : (s.raiseDone).cfg = s.cfg := rfl
@[simp] theorem State.raiseDone_mem : (s.raiseDone).mem = s.mem := rfl
@[simp] theorem State.raiseDone_txState : (s.raiseDone).txState = s.txState := rfl
@[simp] theorem State.raiseDone_timEn : (s.raiseDone).timEn = s.timEn := rfl
@[simp] theorem State.raiseDone_cnt : (s.raiseDone).cnt = s.cnt := rfl
@[simp] theorem State.raiseDone_ccr : (s.raiseDone).ccr = s.ccr := rfl
@[simp] theorem State.raiseDone_dmaEn : (s.raiseDone).dmaEn = s.dmaEn := rfl
@[simp] theorem State.raiseDone_dmaPtr : (s.raiseDone).dmaPtr = s.dmaPtr := rfl
@[simp] theorem State.raiseDone_dmaCnt : (s.raiseDone).dmaCnt = s.dmaCnt := rfl
@[simp] theorem State.raiseDone_done : (s.raiseDone).done = true := rfl
@[simp] theorem State.raiseDone_dout : (s.raiseDone).dout = s.dout := rfl
@[simp] theorem State.raiseDone_err : (s.raiseDone).err = s.err := rfl
@[simp] theorem State.raiseDone_showNo : (s.raiseDone).showNo = s.showNo := rfl
@[simp] theorem State.raiseDone_stream : (s.raiseDone).stream = s.stream := rfl
@[simp] theorem State.raiseDone_line : (s.raiseDone).line = s.line := rfl
@[simp] theorem State.raiseDone_held : (s.raiseDone).held = s.held := rfl
@[simp] theorem State.raiseDone_responses : (s.raiseDone).responses = s.responses := rfl
@[simp] theorem State.raiseDone_program : (s.raiseDone).program = s.program := rfl
@[simp] theorem State.raiseDone_resets : (s.raiseDone).resets = s.resets := rfl
@[simp] theorem State.raiseDone_sched : (s.raiseDone).sched = s.sched := rfl
@[simp] theorem State.raiseDone_moveNo : (s.raiseDone).moveNo = s.moveNo := rfl
@[simp] theorem State.raiseDone_outside : (s.raiseDone).outside = s.outside := rfl

/-! ## State.copyByte -/

@[simp] theorem State.copyByte_cfg (v : Byte) : (s.copyByte v).cfg = s.cfg := rfl
@[simp] theorem State.copyByte_mem (v : Byte) : (s.copyByte v).mem = s.mem := rfl
@[simp] theorem State.copyByte_txState (v : Byte) : (s.copyByte v).txState = s.txState := rfl
@[simp] theorem State.copyByte_timEn (v : Byte) : (s.copyByte v).timEn = s.timEn := rfl
@[simp] theorem State.copyByte_cnt (v : Byte) : (s.copyByte v).cnt = s.cnt := rfl
@[simp] theorem State.copyByte_ccr (v : Byte) : (s.copyByte v).ccr = v := rfl
@[simp] theorem State.copyByte_dmaEn (v : Byte) : (s.copyByte v).dmaEn = s.dmaEn := rfl
@[simp] theorem State.copyByte_dmaPtr (v : Byte) : (s.copyByte v).dmaPtr = s.dmaPtr + 1 := rfl
@[simp] theorem State.copyByte_dmaCnt (v : Byte) : (s.copyByte v).dmaCnt = s.dmaCnt - 1 := rfl
@[simp] theorem State.copyByte_done (v : Byte) : (s.copyByte v).done = s.done := rfl
@[simp] theorem State.copyByte_dout (v : Byte) : (s.copyByte v).dout = s.dout := rfl
@[simp] theorem State.copyByte_err (v : Byte) : (s.copyByte v).err = s.err := rfl
@[simp] theorem State.copyByte_showNo (v : Byte) : (s.copyByte v).showNo = s.showNo := rfl
@[simp] theorem State.copyByte_stream (v : Byte) : (s.copyByte v).stream = s.stream ++ [(s.showNo, v)] := rfl
@[simp] theorem State.copyByte_line (v : Byte) : (s.copyByte v).line = s.line := rfl
@[simp] theorem State.copyByte_held (v : Byte) : (s.copyByte v).held = s.held := rfl
@[simp] theorem State.copyByte_responses (v : Byte) : (s.copyByte v).responses = s.responses := rfl
@[simp] theorem State.copyByte_program (v : Byte) : (s.copyByte v).program = s.program := rfl
@[simp] theorem State.copyByte_resets (v : Byte) : (s.copyByte v).resets = s.resets := rfl
@[simp] theorem State.copyByte_sched (v : Byte) : (s.copyByte v).sched = s.sched := rfl
@[simp] theorem State.copyByte_moveNo (v : Byte) : (s.copyByte v).moveNo = s.moveNo := rfl
@[simp] theorem State.copyByte_outside (v : Byte) : (s.copyByte v).outside = s.outside := rfl

/-! ## State.resetBlock -/

@[simp] theorem State.resetBlock_cfg : (s.resetBlock).cfg = s.cfg := rfl
@[simp] theorem State.resetBlock_mem : (s.resetBlock).mem = [] := rfl
@[simp] theorem State.resetBlock_txState : (s.resetBlock).txState = .idle := rfl
@[simp] theorem State.resetBlock_timEn : (s.resetBlock).timEn = false := rfl
@[simp] theorem State.resetBlock_cnt : (s.resetBlock).cnt = 0 := rfl
@[simp] theorem State.resetBlock_ccr : (s.resetBlock).ccr = 0x00#8 := rfl
@[simp] theorem State.resetBlock_dmaEn : (s.resetBlock).dmaEn = false := rfl
@[simp] theorem State.resetBlock_dmaPtr : (s.resetBlock).dmaPtr = 0 := rfl
@[simp] theorem State.resetBlock_dmaCnt : (s.resetBlock).dmaCnt = 0 := rfl
@[simp] theorem State.resetBlock_done : (s.resetBlock).done = false := rfl
@[simp] theorem State.resetBlock_dout : (s.resetBlock).dout = false := rfl
@[simp] theorem State.resetBlock_err : (s.resetBlock).err = 0#2 := rfl
@[simp] theorem State.resetBlock_showNo : (s.resetBlock).showNo = 0 := rfl
@[simp] theorem State.resetBlock_stream : (s.resetBlock).stream = [] := rfl
@[simp] theorem State.resetBlock_line : (s.resetBlock).line = [] := rfl
@[simp] theorem State.resetBlock_held : (s.resetBlock).held = none := rfl
@[simp] theorem State.resetBlock_responses : (s.resetBlock).responses = [] := rfl
@[simp] theorem State.resetBlock_program : (s.resetBlock).program = s.program := rfl
@[simp] theorem State.resetBlock_resets : (s.resetBlock).resets = s.resets + 1 := rfl
@[simp] theorem State.resetBlock_sched : (s.resetBlock).sched = s.sched := rfl
@[simp] theorem State.resetBlock_moveNo : (s.resetBlock).moveNo = s.moveNo := rfl
@[simp] theorem State.resetBlock_outside : (s.resetBlock).outside = s.outside := rfl

/-! ## State.advance -/

@[simp] theorem State.advance_cfg : (s.advance).cfg = s.cfg := by
  unfold State.advance; split <;> simp [*]
@[simp] theorem State.advance_mem : (s.advance).mem = s.mem := by
  unfold State.advance; split <;> simp [*]
@[simp] theorem State.advance_txState : (s.advance).txState = s.txState := by
  unfold State.advance; split <;> simp [*]
@[simp] theorem State.advance_timEn : (s.advance).timEn = s.timEn := by
  unfold State.advance; split <;> simp [*]
@[simp] theorem State.advance_cnt : (s.advance).cnt = s.cnt := by
  unfold State.advance; split <;> simp [*]
@[simp] theorem State.advance_ccr : (s.advance).ccr = s.ccr := by
  unfold State.advance; split <;> simp [*]
@[simp] theorem State.advance_dmaEn : (s.advance).dmaEn = s.dmaEn := by
  unfold State.advance; split <;> simp [*]
@[simp] theorem State.advance_dmaPtr : (s.advance).dmaPtr = s.dmaPtr := by
  unfold State.advance; split <;> simp [*]
@[simp] theorem State.advance_dmaCnt : (s.advance).dmaCnt = s.dmaCnt := by
  unfold State.advance; split <;> simp [*]
@[simp] theorem State.advance_done : (s.advance).done = s.done := by
  unfold State.advance; split <;> simp [*]
@[simp] theorem State.advance_dout : (s.advance).dout = s.dout := by
  unfold State.advance; split <;> simp [*]
@[simp] theorem State.advance_err : (s.advance).err = s.err := by
  unfold State.advance; split <;> simp [*]
@[simp] theorem State.advance_showNo : (s.advance).showNo = s.showNo := by
  unfold State.advance; split <;> simp [*]
@[simp] theorem State.advance_stream : (s.advance).stream = s.stream := by
  unfold State.advance; split <;> simp [*]
@[simp] theorem State.advance_line : (s.advance).line = s.line := by
  unfold State.advance; split <;> simp [*]
@[simp] theorem State.advance_held : (s.advance).held = s.held := by
  unfold State.advance; split <;> simp [*]
@[simp] theorem State.advance_responses : (s.advance).responses = s.responses := by
  unfold State.advance; split <;> simp [*]
@[simp] theorem State.advance_program : (s.advance).program = s.program := by
  unfold State.advance; split <;> simp [*]
@[simp] theorem State.advance_resets : (s.advance).resets = s.resets := by
  unfold State.advance; split <;> simp [*]
@[simp] theorem State.advance_sched : (s.advance).sched = s.sched.tail := by
  unfold State.advance; split <;> simp [*]
@[simp] theorem State.advance_outside : (s.advance).outside = s.outside := by
  unfold State.advance; split <;> simp [*]

/-! ## State.present -/

@[simp] theorem State.present_cfg : (s.present).cfg = s.cfg := by
  unfold State.present; split <;> rfl
@[simp] theorem State.present_mem : (s.present).mem = s.mem := by
  unfold State.present; split <;> rfl
@[simp] theorem State.present_txState : (s.present).txState = s.txState := by
  unfold State.present; split <;> rfl
@[simp] theorem State.present_timEn : (s.present).timEn = s.timEn := by
  unfold State.present; split <;> rfl
@[simp] theorem State.present_cnt : (s.present).cnt = s.cnt := by
  unfold State.present; split <;> rfl
@[simp] theorem State.present_ccr : (s.present).ccr = s.ccr := by
  unfold State.present; split <;> rfl
@[simp] theorem State.present_dmaEn : (s.present).dmaEn = s.dmaEn := by
  unfold State.present; split <;> rfl
@[simp] theorem State.present_dmaPtr : (s.present).dmaPtr = s.dmaPtr := by
  unfold State.present; split <;> rfl
@[simp] theorem State.present_dmaCnt : (s.present).dmaCnt = s.dmaCnt := by
  unfold State.present; split <;> rfl
@[simp] theorem State.present_done : (s.present).done = s.done := by
  unfold State.present; split <;> rfl
@[simp] theorem State.present_dout : (s.present).dout = s.dout := by
  unfold State.present; split <;> rfl
@[simp] theorem State.present_err : (s.present).err = s.err := by
  unfold State.present; split <;> rfl
@[simp] theorem State.present_showNo : (s.present).showNo = s.showNo := by
  unfold State.present; split <;> rfl
@[simp] theorem State.present_stream : (s.present).stream = s.stream := by
  unfold State.present; split <;> rfl
@[simp] theorem State.present_line : (s.present).line = s.line := by
  unfold State.present; split <;> rfl
@[simp] theorem State.present_responses : (s.present).responses = s.responses := by
  unfold State.present; split <;> rfl
@[simp] theorem State.present_resets : (s.present).resets = s.resets := by
  unfold State.present; split <;> rfl
@[simp] theorem State.present_sched : (s.present).sched = s.sched := by
  unfold State.present; split <;> rfl
@[simp] theorem State.present_moveNo : (s.present).moveNo = s.moveNo := by
  unfold State.present; split <;> rfl
@[simp] theorem State.present_outside : (s.present).outside = s.outside := by
  unfold State.present; split <;> rfl

/-! ## armStep -/

@[simp] theorem armStep_cfg (w : ArmWrite) : (armStep w s).cfg = s.cfg := by
  cases w <;> rfl
@[simp] theorem armStep_mem (w : ArmWrite) : (armStep w s).mem = s.mem := by
  cases w <;> rfl
@[simp] theorem armStep_ccr (w : ArmWrite) : (armStep w s).ccr = s.ccr := by
  cases w <;> rfl
@[simp] theorem armStep_done (w : ArmWrite) : (armStep w s).done = s.done := by
  cases w <;> rfl
@[simp] theorem armStep_dout (w : ArmWrite) : (armStep w s).dout = s.dout := by
  cases w <;> rfl
@[simp] theorem armStep_err (w : ArmWrite) : (armStep w s).err = s.err := by
  cases w <;> rfl
@[simp] theorem armStep_showNo (w : ArmWrite) : (armStep w s).showNo = s.showNo := by
  cases w <;> rfl
@[simp] theorem armStep_stream (w : ArmWrite) : (armStep w s).stream = s.stream := by
  cases w <;> rfl
@[simp] theorem armStep_line (w : ArmWrite) : (armStep w s).line = s.line := by
  cases w <;> rfl
@[simp] theorem armStep_held (w : ArmWrite) : (armStep w s).held = s.held := by
  cases w <;> rfl
@[simp] theorem armStep_responses (w : ArmWrite) : (armStep w s).responses = s.responses := by
  cases w <;> rfl
@[simp] theorem armStep_program (w : ArmWrite) : (armStep w s).program = s.program := by
  cases w <;> rfl
@[simp] theorem armStep_resets (w : ArmWrite) : (armStep w s).resets = s.resets := by
  cases w <;> rfl
@[simp] theorem armStep_sched (w : ArmWrite) : (armStep w s).sched = s.sched := by
  cases w <;> rfl
@[simp] theorem armStep_moveNo (w : ArmWrite) : (armStep w s).moveNo = s.moveNo := by
  cases w <;> rfl
@[simp] theorem armStep_outside (w : ArmWrite) : (armStep w s).outside = s.outside := by
  cases w <;> rfl

/-! ## drainStep -/

@[simp] theorem drainStep_cfg (w : DrainWrite) : (drainStep w s).cfg = s.cfg := by
  cases w <;> try rfl
  simp only [drainStep, pollStep]; split <;> rfl
@[simp] theorem drainStep_mem (w : DrainWrite) : (drainStep w s).mem = s.mem := by
  cases w <;> try rfl
  simp only [drainStep, pollStep]; split <;> rfl
@[simp] theorem drainStep_cnt (w : DrainWrite) : (drainStep w s).cnt = s.cnt := by
  cases w <;> try rfl
  simp only [drainStep, pollStep]; split <;> rfl
@[simp] theorem drainStep_ccr (w : DrainWrite) : (drainStep w s).ccr = s.ccr := by
  cases w <;> try rfl
  simp only [drainStep, pollStep]; split <;> rfl
@[simp] theorem drainStep_dmaPtr (w : DrainWrite) : (drainStep w s).dmaPtr = s.dmaPtr := by
  cases w <;> try rfl
  simp only [drainStep, pollStep]; split <;> rfl
@[simp] theorem drainStep_dmaCnt (w : DrainWrite) : (drainStep w s).dmaCnt = s.dmaCnt := by
  cases w <;> try rfl
  simp only [drainStep, pollStep]; split <;> rfl
@[simp] theorem drainStep_err (w : DrainWrite) : (drainStep w s).err = s.err := by
  cases w <;> try rfl
  simp only [drainStep, pollStep]; split <;> rfl
@[simp] theorem drainStep_showNo (w : DrainWrite) : (drainStep w s).showNo = s.showNo := by
  cases w <;> try rfl
  simp only [drainStep, pollStep]; split <;> rfl
@[simp] theorem drainStep_stream (w : DrainWrite) : (drainStep w s).stream = s.stream := by
  cases w <;> try rfl
  simp only [drainStep, pollStep]; split <;> rfl
@[simp] theorem drainStep_line (w : DrainWrite) : (drainStep w s).line = s.line := by
  cases w <;> try rfl
  simp only [drainStep, pollStep]; split <;> rfl
@[simp] theorem drainStep_held (w : DrainWrite) : (drainStep w s).held = s.held := by
  cases w <;> try rfl
  simp only [drainStep, pollStep]; split <;> rfl
@[simp] theorem drainStep_program (w : DrainWrite) : (drainStep w s).program = s.program := by
  cases w <;> try rfl
  simp only [drainStep, pollStep]; split <;> rfl
@[simp] theorem drainStep_resets (w : DrainWrite) : (drainStep w s).resets = s.resets := by
  cases w <;> try rfl
  simp only [drainStep, pollStep]; split <;> rfl
@[simp] theorem drainStep_sched (w : DrainWrite) : (drainStep w s).sched = s.sched := by
  cases w <;> try rfl
  simp only [drainStep, pollStep]; split <;> rfl
@[simp] theorem drainStep_moveNo (w : DrainWrite) : (drainStep w s).moveNo = s.moveNo := by
  cases w <;> try rfl
  simp only [drainStep, pollStep]; split <;> rfl
@[simp] theorem drainStep_outside (w : DrainWrite) : (drainStep w s).outside = s.outside := by
  cases w <;> try rfl
  simp only [drainStep, pollStep]; split <;> rfl

end Sys2Proof.Machine
end

