-- ==== Sys2Proof/Laws/Observe.lean ====
section
/-! SUPPORT. How the histories of one show grow. -/

namespace Sys2Proof.Machine

/-- One more tagged entry at the end of a history. -/
theorem history_append {α : Type} (l : List (Nat × α)) (k n : Nat) (v : α) :
    ((l ++ [(n, v)]).filter fun e => e.1 == k).map (fun e => e.2)
      = (l.filter fun e => e.1 == k).map (fun e => e.2) ++ if n = k then [v] else [] := by
  simp only [List.filter_append, List.map_append]
  by_cases h : n = k <;> simp [h]

/-- A history that holds shows `1` to `n` holds nothing of a later one. -/
theorem history_of_later_show {α : Type} (l : List (Nat × α)) (k n : Nat) (h : ∀ e ∈ l, 1 ≤ e.1 ∧ e.1 ≤ n) (hk : n < k) :
    (l.filter fun e => e.1 == k).map (fun e => e.2) = [] := by
  simp only [List.map_eq_nil_iff, List.filter_eq_nil_iff, beq_iff_eq]
  intro e he hek
  have := h e he
  omega

/-- A beat adds one byte to its show's stream. -/
theorem State.copyByte_streamOf (s : State) (v : Byte) (k : Nat) :
    (s.copyByte v).streamOf k = s.streamOf k ++ if s.showNo = k then [v] else [] := by
  simp only [State.streamOf, State.copyByte_stream, history_append]

/-- A tick adds one level to its show's line. -/
theorem driveTick_lineOf (s : State) (k : Nat) :
    (driveTick s).lineOf k = s.lineOf k ++ if s.showNo = k then [wave s.ccr s.cnt] else [] := by
  simp only [State.lineOf, driveTick_line, history_append]

/-- The rest of a tick adds nothing to a stream. -/
theorem driveTick_streamOf (s : State) (k : Nat) : (driveTick s).streamOf k = s.streamOf k := by
  simp only [State.streamOf, driveTick_stream]

/-- A beat adds nothing to a line. -/
theorem State.copyByte_lineOf (s : State) (v : Byte) (k : Nat) : (s.copyByte v).lineOf k = s.lineOf k := by
  simp only [State.lineOf, State.copyByte_line]

end Sys2Proof.Machine
end

