-- ==== Sys2Proof/Laws/Ops.lean ====
section
/-! SUPPORT. What each shared operation can do, said once: buffer reads and writes, the encoder's effects, the tick, the
block's move and the step. -/

namespace Sys2Proof.Machine

/-! ## Outcomes -/

@[simp] theorem andThen_next (s : State) (f : State → Result) : andThen (.next s) f = f s := rfl

theorem andThen_eq_next {o : Result} {f : State → Result} {t : State} :
    andThen o f = .next t ↔ ∃ s, o = .next s ∧ f s = .next t := by
  cases o <;> simp [andThen]

/-! ## The frame buffer -/

theorem State.readByte_eq_view (s : State) (a : Nat) :
    s.readByte a = (Memory.view s.cfg s.mem a).getD (Config.resetByte s.resets a) := by
  unfold State.readByte Memory.view
  cases Memory.lookup s.mem a with
  | some v => rfl
  | none => cases Memory.unlisted s.cfg a <;> rfl

/-- A read of the buffer depends on the parameters, the listed bytes and the reset's free bytes only. -/
theorem State.readByte_congr {s t : State} (hc : t.cfg = s.cfg) (hm : t.mem = s.mem) (hr : t.resets = s.resets) :
    t.readByte = s.readByte := by
  funext a
  simp only [State.readByte_eq_view, hc, hm, hr]

@[simp] theorem State.readByte_respond (s : State) (st : BitVec 4) (r : Packed) :
    (s.respond st r).readByte = s.readByte := rfl

@[simp] theorem State.readByte_raise (s : State) (f : CommandFault) : (s.raise f).readByte = s.readByte := rfl

@[simp] theorem State.readByte_takeHeld (s : State) : s.takeHeld.readByte = s.readByte := rfl

@[simp] theorem State.readByte_beginShow (s : State) : s.beginShow.readByte = s.readByte := rfl

@[simp] theorem State.readByte_raiseDone (s : State) : s.raiseDone.readByte = s.readByte := rfl

@[simp] theorem State.readByte_copyByte (s : State) (v : Byte) : (s.copyByte v).readByte = s.readByte := rfl

@[simp] theorem State.readByte_driveTick (s : State) : (driveTick s).readByte = s.readByte := rfl

@[simp] theorem State.readByte_startDraining (s : State) : (startDraining s).readByte = s.readByte := rfl

@[simp] theorem State.readByte_armStep (w : ArmWrite) (s : State) : (armStep w s).readByte = s.readByte :=
  State.readByte_congr (by simp) (by simp) (by simp)

@[simp] theorem State.readByte_drainStep (w : DrainWrite) (s : State) : (drainStep w s).readByte = s.readByte :=
  State.readByte_congr (by simp) (by simp) (by simp)

@[simp] theorem State.readByte_advance (s : State) : s.advance.readByte = s.readByte :=
  State.readByte_congr (by simp) (by simp) (by simp)

@[simp] theorem State.readByte_present (s : State) : s.present.readByte = s.readByte :=
  State.readByte_congr (by simp) (by simp) (by simp)

theorem mem_cellsInside {p : Params} {cs : List Host.Cell} {c : Host.Cell} :
    c ∈ cellsInside p cs ↔ c ∈ cs ∧ c.1 < bufLen p := by
  simp [cellsInside]

theorem mem_cellsOutside {p : Params} {cs : List Host.Cell} {c : Host.Cell} :
    c ∈ cellsOutside p cs ↔ c ∈ cs ∧ bufLen p ≤ c.1 := by
  simp [cellsOutside]

theorem State.stopsWithin_eq_true {s : State} {n : Nat} :
    s.stopsWithin n = true ↔ ∃ j, j < n ∧ Config.outsideWriteStops (s.outside.length + j) = true := by
  simp [State.stopsWithin]

/-- One more write outside: the first stops, or one of the rest. -/
theorem State.stopsWithin_succ (s : State) (c : Host.Cell) (n : Nat) :
    s.stopsWithin (n + 1)
      = (Config.outsideWriteStops s.outside.length
        || ({ s with outside := s.outside ++ [c] } : State).stopsWithin n) := by
  simp only [State.stopsWithin, List.range_succ_eq_map, List.any_cons, List.any_map, Nat.add_zero, List.length_append,
    List.length_cons, List.length_nil]
  congr 2
  funext j
  simp only [Function.comp_apply]
  congr 1
  omega

/-- Everything a row of writes can do: stop at the first write outside the buffer whose free value stops the machine, or make
them all. -/
theorem State.writeCells_eq (s : State) (cs : List Host.Cell) :
    s.writeCells cs
      = if s.stopsWithin (cellsOutside s.cfg cs).length then .fault .writeOutsideBuffer else .next (s.afterWrites cs) := by
  induction cs generalizing s with
  | nil => simp [State.writeCells, cellsOutside, State.stopsWithin, State.afterWrites, cellsInside, Memory.storeAll]
  | cons c cs ih =>
    unfold State.writeCells State.writeCell
    by_cases hc : c.1 < bufLen s.cfg
    · have hout : cellsOutside s.cfg (c :: cs) = cellsOutside s.cfg cs := by simp [cellsOutside, hc]
      have hin : cellsInside s.cfg (c :: cs) = c :: cellsInside s.cfg cs := by simp [cellsInside, hc]
      rw [if_pos hc, andThen_next, ih, hout]
      simp only [State.afterWrites, hout, hin, State.withMem, State.stopsWithin, Memory.storeAll, List.foldl_cons]
      rfl
    · have hout : cellsOutside s.cfg (c :: cs) = c :: cellsOutside s.cfg cs := by
        simp [cellsOutside, Nat.not_lt.1 hc]
      have hin : cellsInside s.cfg (c :: cs) = cellsInside s.cfg cs := by simp [cellsInside, hc]
      rw [if_neg hc, hout, List.length_cons, State.stopsWithin_succ s c]
      unfold State.writeOutside
      by_cases hs : Config.outsideWriteStops s.outside.length = true
      · simp [hs, andThen]
      · simp only [hs, andThen_next, ih, Bool.false_or, Bool.false_eq_true, if_false, State.afterWrites, hout, hin,
          List.append_assoc, List.cons_append, List.nil_append]

/-- Writes end in a next state exactly when none outside the buffer stops the machine. -/
theorem State.writeCells_eq_next {s t : State} {cs : List Host.Cell} :
    s.writeCells cs = .next t ↔ s.stopsWithin (cellsOutside s.cfg cs).length = false ∧ t = s.afterWrites cs := by
  rw [State.writeCells_eq]
  cases s.stopsWithin (cellsOutside s.cfg cs).length <;> simp [eq_comm]

theorem State.afterWrites_of_forall {s : State} {cs : List Host.Cell} (h : ∀ c ∈ cs, c.1 < bufLen s.cfg) :
    s.afterWrites cs = s.withMem (Memory.storeAll s.cfg s.mem cs) := by
  have hin : cellsInside s.cfg cs = cs := by
    simp only [cellsInside, List.filter_eq_self, decide_eq_true_eq]
    exact h
  have hout : cellsOutside s.cfg cs = [] := by
    simp only [cellsOutside, List.filter_eq_nil_iff, decide_eq_true_eq, Nat.not_le]
    exact h
  simp only [State.afterWrites, hin, hout, List.append_nil, State.withMem]

theorem State.writeCells_of_forall {s : State} {cs : List Host.Cell} (h : ∀ c ∈ cs, c.1 < bufLen s.cfg) :
    s.writeCells cs = .next (s.withMem (Memory.storeAll s.cfg s.mem cs)) := by
  rw [State.writeCells_eq_next, State.afterWrites_of_forall h]
  refine ⟨?_, rfl⟩
  have hout : cellsOutside s.cfg cs = [] := by
    simp only [cellsOutside, List.filter_eq_nil_iff, decide_eq_true_eq, Nat.not_le]
    exact h
  rw [hout]
  rfl

/-- After writes an address that none of them names holds its byte. -/
theorem State.readByte_afterWrites_of_not_mem (s : State) {cs : List Host.Cell} {x : Nat}
    (h : ∀ c ∈ cs, c.1 < bufLen s.cfg → c.1 ≠ x) : (s.afterWrites cs).readByte x = s.readByte x := by
  have h' : ∀ c ∈ cellsInside s.cfg cs, c.1 ≠ x := fun c hc =>
    h c (mem_cellsInside.1 hc).1 (mem_cellsInside.1 hc).2
  simp [State.readByte_eq_view, Memory.view_storeAll_of_not_mem _ _ _ _ h']

/-- After writes an address of the buffer that they name, all with one value, holds that value. -/
theorem State.readByte_afterWrites_of_mem (s : State) {cs : List Host.Cell} {x : Nat} {v : Byte}
    (hx : ∃ c ∈ cs, c.1 = x) (hL : x < bufLen s.cfg) (hv : ∀ c ∈ cs, c.1 = x → c.2 = v) :
    (s.afterWrites cs).readByte x = v := by
  have hx' : ∃ c ∈ cellsInside s.cfg cs, c.1 = x := by
    obtain ⟨c, hc, rfl⟩ := hx
    exact ⟨c, mem_cellsInside.2 ⟨hc, hL⟩, rfl⟩
  have hv' : ∀ c ∈ cellsInside s.cfg cs, c.1 = x → c.2 = v := fun c hc => hv c (mem_cellsInside.1 hc).1
  simp [State.readByte_eq_view, Memory.view_storeAll_of_mem _ _ _ _ _ hx' hv']

/-- Writes keep the canonical form. -/
theorem State.afterWrites_wf {s : State} (cs : List Host.Cell) (h : Memory.wf s.cfg s.mem) :
    Memory.wf (s.afterWrites cs).cfg (s.afterWrites cs).mem :=
  Memory.storeAll_wf _ h fun _ hc => (mem_cellsInside.1 hc).2

/-- An address that no write names holds its byte. -/
theorem State.readByte_storeAll_of_not_mem (s : State) {cs : List Host.Cell} {x : Nat} (h : ∀ c ∈ cs, c.1 ≠ x) :
    (s.withMem (Memory.storeAll s.cfg s.mem cs)).readByte x = s.readByte x := by
  simp [State.readByte_eq_view, Memory.view_storeAll_of_not_mem _ _ _ _ h]

/-- An address that writes name, all with one value, holds that value. -/
theorem State.readByte_storeAll_of_mem (s : State) {cs : List Host.Cell} {x : Nat} {v : Byte}
    (hx : ∃ c ∈ cs, c.1 = x) (hv : ∀ c ∈ cs, c.1 = x → c.2 = v) :
    (s.withMem (Memory.storeAll s.cfg s.mem cs)).readByte x = v := by
  simp [State.readByte_eq_view, Memory.view_storeAll_of_mem _ _ _ _ _ hx hv]

/-! ## The cells that the encoder writes -/

theorem slot_lt {n i c k : Nat} (hi : i < n) (hc : c < 3) : slot i c k < n * 24 := by
  unfold slot
  omega

theorem slot_inj {i c k i' c' k' : Nat} (hc : c < 3) (hk : k < 8) (hc' : c' < 3) (hk' : k' < 8)
    (h : slot i c k = slot i' c' k') : i = i' ∧ c = c' ∧ k = k' := by
  unfold slot at h
  omega

/-- The cells of one slice: the timing class of every bit of every channel, at its slot. -/
theorem mem_sliceCells {p : Params} {i : Nat} {r g b : Byte} {x : Host.Cell} :
    x ∈ sliceCells p i r g b ↔
      ∃ c k, c < 3 ∧ k < 8 ∧ x = (slot i c k, timingClass p ((channelAt r g b c).getLsbD k)) := by
  have hch : ∀ c v, x ∈ channelCells p i c v ↔ ∃ k, k < 8 ∧ x = (slot i c k, timingClass p (v.getLsbD k)) := by
    intro c v
    constructor
    · intro h
      simp only [channelCells, List.mem_map] at h
      obtain ⟨k, hk, rfl⟩ := h
      refine ⟨k, ?_, rfl⟩
      simp only [List.mem_cons, List.not_mem_nil, or_false] at hk
      omega
    · rintro ⟨k, hk, rfl⟩
      simp only [channelCells, List.mem_map]
      refine ⟨k, ?_, rfl⟩
      simp only [List.mem_cons, List.not_mem_nil, or_false]
      omega
  simp only [sliceCells, List.mem_append, hch]
  constructor
  · rintro ((⟨k, hk, h⟩ | ⟨k, hk, h⟩) | ⟨k, hk, h⟩)
    · exact ⟨0, k, by omega, hk, h⟩
    · exact ⟨1, k, by omega, hk, h⟩
    · exact ⟨2, k, by omega, hk, h⟩
  · rintro ⟨c, k, hc, hk, h⟩
    obtain rfl | rfl | rfl : c = 0 ∨ c = 1 ∨ c = 2 := by omega
    · exact .inl (.inl ⟨k, hk, h⟩)
    · exact .inl (.inr ⟨k, hk, h⟩)
    · exact .inr ⟨k, hk, h⟩

theorem sliceCells_addr {p : Params} {i : Nat} {r g b : Byte} {x : Host.Cell} (h : x ∈ sliceCells p i r g b) :
    i * 24 ≤ x.1 ∧ x.1 < i * 24 + 24 := by
  obtain ⟨c, k, hc, hk, rfl⟩ := mem_sliceCells.1 h
  simp only [slot]
  omega

theorem mem_clearCells {p : Params} {x : Host.Cell} :
    x ∈ clearCells p ↔ ∃ i c k, i < p.n ∧ c < 3 ∧ k < 8 ∧ x = (slot i c k, p.low) := by
  simp only [clearCells, List.mem_flatMap, List.mem_range, mem_sliceCells]
  constructor
  · rintro ⟨i, hi, c, k, hc, hk, rfl⟩
    exact ⟨i, c, k, hi, hc, hk, by simp [channelAt, timingClass]⟩
  · rintro ⟨i, c, k, hi, hc, hk, rfl⟩
    exact ⟨i, hi, c, k, hc, hk, by simp [channelAt, timingClass]⟩

theorem clearCells_lt {p : Params} {x : Host.Cell} (h : x ∈ clearCells p) : x.1 < ledEnd p := by
  obtain ⟨i, c, k, hi, hc, hk, rfl⟩ := mem_clearCells.1 h
  exact slot_lt hi hc

/-! ## The encoder -/

theorem indexInRange_eq_true {p : Params} {index : LedIndex} : indexInRange p index = true ↔ index.toNat < p.n := by
  simp [indexInRange]

/-- With an index below `N` the 24 cells of the slice are written and the answer is `OK`. -/
theorem setColourAt_of_lt {index : LedIndex} {r g b : Byte} {s : State} (h : index.toNat < s.cfg.n) :
    setColourAt index r g b s =
      .next ((s.withMem (Memory.storeAll s.cfg s.mem (sliceCells s.cfg index.toNat r g b))).respond statusOk 0) := by
  unfold setColourAt
  rw [if_pos (by simp [indexInRange, h]), State.writeCells_of_forall, andThen_next]
  intro c hc
  have := sliceCells_addr hc
  unfold bufLen ledEnd
  omega

/-- With an index at or above `N`, `reject` raises `RangeError`. -/
theorem setColourAt_of_reject {index : LedIndex} {r g b : Byte} {s : State} (h : s.cfg.n ≤ index.toNat)
    (hp : s.cfg.rangePolicy = .reject) : setColourAt index r g b s = .next (s.raise .rangeError) := by
  unfold setColourAt
  rw [if_neg (by simp [indexInRange, hp]; omega)]

/-- Under `unchecked` the 24 writes are made whatever the index: a fault where one of them stops the machine, and otherwise
the answer `OK`. -/
theorem setColourAt_of_unchecked {index : LedIndex} {r g b : Byte} {s : State} (hp : s.cfg.rangePolicy = .unchecked) :
    setColourAt index r g b s =
      if s.stopsWithin (cellsOutside s.cfg (sliceCells s.cfg index.toNat r g b)).length then .fault .writeOutsideBuffer
      else .next ((s.afterWrites (sliceCells s.cfg index.toNat r g b)).respond statusOk 0) := by
  unfold setColourAt
  rw [if_pos (by simp [hp]), State.writeCells_eq]
  split <;> rfl

/-- Everything SET_COLOR and SET_COLOR_PACKED can do when they end in a next state. -/
theorem setColourAt_next {index : LedIndex} {r g b : Byte} {s t : State} (h : setColourAt index r g b s = .next t) :
    ((index.toNat < s.cfg.n ∨ s.cfg.rangePolicy = .unchecked)
        ∧ t = (s.afterWrites (sliceCells s.cfg index.toNat r g b)).respond statusOk 0)
      ∨ (s.cfg.n ≤ index.toNat ∧ s.cfg.rangePolicy = .reject ∧ t = s.raise .rangeError) := by
  unfold setColourAt at h
  split at h
  · rename_i hc
    obtain ⟨u, hu, ht⟩ := andThen_eq_next.1 h
    obtain ⟨-, rfl⟩ := State.writeCells_eq_next.1 hu
    refine .inl ⟨?_, (Host.Outcome.next.inj ht).symm⟩
    simpa [indexInRange] using hc
  · rename_i hc
    simp only [indexInRange, Bool.or_eq_true, decide_eq_true_eq, not_or, not_lt] at hc
    refine .inr ⟨hc.1, ?_, (Host.Outcome.next.inj h).symm⟩
    cases hp : s.cfg.rangePolicy with
    | reject => rfl
    | unchecked => exact absurd hp hc.2

/-- CLEAR writes its cells and answers `OK`, in every state. -/
theorem execClear_eq (s : State) :
    execClear s = .next ((s.withMem (Memory.storeAll s.cfg s.mem (clearCells s.cfg))).respond statusOk 0) := by
  unfold execClear
  rw [State.writeCells_of_forall, andThen_next]
  intro c hc
  have := clearCells_lt hc
  unfold bufLen
  omega

/-- Everything an instruction can do when it ends in a next state: make writes and answer `OK`, raise a range error, answer a
packed colour, or begin a show. Under `reject` every write lies in the LED region. -/
theorem exec_next {i : Instr} {s t : State} (h : exec i s = .next t) :
    (∃ cs, (s.cfg.rangePolicy = .reject → ∀ c ∈ cs, c.1 < ledEnd s.cfg)
        ∧ t = (s.afterWrites cs).respond statusOk 0)
      ∨ t = s.raise .rangeError
      ∨ (∃ p, t = s.respond statusOk p)
      ∨ (i = .showFrame ∧ t = s.beginShow) := by
  have hset : ∀ {index r g b}, setColourAt index r g b s = .next t →
      (∃ cs, (s.cfg.rangePolicy = .reject → ∀ c ∈ cs, c.1 < ledEnd s.cfg)
        ∧ t = (s.afterWrites cs).respond statusOk 0)
      ∨ t = s.raise .rangeError := by
    intro index r g b h
    rcases setColourAt_next h with ⟨hi, ht⟩ | ⟨-, -, ht⟩
    · refine .inl ⟨_, fun hp c hc => ?_, ht⟩
      have hlt : index.toNat < s.cfg.n := hi.resolve_right (by simp [hp])
      have := sliceCells_addr hc
      unfold ledEnd
      omega
    · exact .inr ht
  cases i with
  | setColor index r g b =>
    rcases hset h with h | h
    · exact .inl h
    · exact .inr (.inl h)
  | setColorPacked index packed =>
    rcases hset h with h | h
    · exact .inl h
    · exact .inr (.inl h)
  | clear =>
    have h : execClear s = .next t := h
    rw [execClear_eq] at h
    refine .inl ⟨clearCells s.cfg, fun _ c hc => clearCells_lt hc, ?_⟩
    rw [State.afterWrites_of_forall]
    · exact (Host.Outcome.next.inj h).symm
    · intro c hc
      have := clearCells_lt hc
      unfold bufLen
      omega
  | pack r g b => exact .inr (.inr (.inl ⟨_, (Host.Outcome.next.inj h).symm⟩))
  | showFrame => exact .inr (.inr (.inr ⟨rfl, (Host.Outcome.next.inj h).symm⟩))

/-! ## The streamer -/

theorem State.memRead_eq_some {s : State} {a : Nat} {v : Byte} :
    s.memRead a = some v ↔ a < bufLen s.cfg ∧ v = s.readByte a := by
  unfold State.memRead
  split <;> simp_all [eq_comm]

/-- Everything a tick can do when it ends in a next state (42_waveform.md R131). -/
theorem tick_next {s t : State} (h : tick s = .next t) :
    (s.timEn = false ∧ t = s)
      ∨ (s.timEn = true ∧ (s.cnt ≠ 0 ∨ s.dmaEn = false) ∧ t = driveTick s)
      ∨ (s.timEn = true ∧ s.cnt = 0 ∧ s.dmaEn = true ∧ s.dmaCnt = 0 ∧ t = driveTick s.raiseDone)
      ∨ (s.timEn = true ∧ s.cnt = 0 ∧ s.dmaEn = true ∧ 0 < s.dmaCnt ∧ s.dmaPtr < bufLen s.cfg
          ∧ t = driveTick (s.copyByte (s.readByte s.dmaPtr))) := by
  unfold tick at h
  split at h
  · rename_i hen
    obtain ⟨u, hu, ht⟩ := andThen_eq_next.1 h
    obtain rfl := Host.Outcome.next.inj ht
    split at hu
    · rename_i hc
      unfold openCell at hu
      split at hu
      · rename_i hd
        split at hu
        · rename_i hp
          unfold beat at hu
          split at hu
          · rename_i v hv
            obtain ⟨hlt, rfl⟩ := State.memRead_eq_some.1 hv
            obtain rfl := Host.Outcome.next.inj hu
            exact .inr (.inr (.inr ⟨hen, hc, hd, hp, hlt, rfl⟩))
          · cases hu
        · obtain rfl := Host.Outcome.next.inj hu
          exact .inr (.inr (.inl ⟨hen, hc, hd, by omega, rfl⟩))
      · rename_i hd
        obtain rfl := Host.Outcome.next.inj hu
        exact .inr (.inl ⟨hen, .inr (by simpa using hd), rfl⟩)
    · rename_i hc
      obtain rfl := Host.Outcome.next.inj hu
      exact .inr (.inl ⟨hen, .inl hc, rfl⟩)
  · rename_i hen
    exact .inl ⟨by simpa using hen, (Host.Outcome.next.inj h).symm⟩

/-! ## The block's move and the step -/

/-- Everything the block's move can do when it ends in a next state. -/
theorem blockMove_next {s t : State} (h : blockMove s = .next t) :
    (s.txState = .idle ∧ s.held = none ∧ t = s)
      ∨ (∃ w e, s.txState = .idle ∧ s.held = some w ∧ decode w = .error e ∧ t = s.takeHeld.raise .illegalCommand)
      ∨ (∃ w i, s.txState = .idle ∧ s.held = some w ∧ decode w = .ok i ∧ exec i s.takeHeld = .next t)
      ∨ (∃ w, s.txState = .arming w ∧ t = armStep w s)
      ∨ (s.txState = .transmitting ∧ t = startDraining s)
      ∨ (∃ w, s.txState = .draining w ∧ t = drainStep w s) := by
  unfold blockMove at h
  split at h
  · rename_i hx
    split at h
    · rename_i w hw
      unfold acceptWord at h
      split at h
      · rename_i i hi
        exact .inr (.inr (.inl ⟨w, i, hx, hw, hi, h⟩))
      · rename_i e he
        exact .inr (.inl ⟨w, e, hx, hw, he, (Host.Outcome.next.inj h).symm⟩)
    · rename_i hw
      exact .inl ⟨hx, hw, (Host.Outcome.next.inj h).symm⟩
  · rename_i w hx
    exact .inr (.inr (.inr (.inl ⟨w, hx, (Host.Outcome.next.inj h).symm⟩)))
  · rename_i hx
    exact .inr (.inr (.inr (.inr (.inl ⟨hx, (Host.Outcome.next.inj h).symm⟩))))
  · rename_i w hx
    exact .inr (.inr (.inr (.inr (.inr ⟨w, hx, (Host.Outcome.next.inj h).symm⟩))))

/-- Everything a step can do when it ends in a next state: one move of one agent. -/
theorem step_next {s t : State} (h : step s = .next t) :
    paramsOK s.cfg = true ∧
      ((s.nextMove = .host ∧ t = s.advance.present)
        ∨ (s.nextMove = .block ∧ blockMove s.advance = .next t)
        ∨ (s.nextMove = .tick ∧ tick s.advance = .next t)
        ∨ (s.nextMove = .reset ∧ t = s.advance.resetBlock)) := by
  unfold step runStep at h
  split at h
  · rename_i hp
    refine ⟨hp, ?_⟩
    cases hm : s.nextMove with
    | host =>
      rw [hm] at h
      exact .inl ⟨rfl, (Host.Outcome.next.inj h).symm⟩
    | block =>
      rw [hm] at h
      exact .inr (.inl ⟨rfl, h⟩)
    | tick =>
      rw [hm] at h
      exact .inr (.inr (.inl ⟨rfl, h⟩))
    | reset =>
      rw [hm] at h
      exact .inr (.inr (.inr ⟨rfl, (Host.Outcome.next.inj h).symm⟩))
  · cases h

/-- With legal parameters a step is its next move. -/
theorem step_eq_runMove {s : State} (h : paramsOK s.cfg = true) : step s = runMove s.nextMove s.advance := by
  simp [step, runStep, h]

end Sys2Proof.Machine
end

