-- ==== Sys2Proof/Laws/PerInstr.lean ====
section
/-! SUPPORT. The family `FieldsLegal`: what the spec's encoding table (30_encoding.md R72) says of every instruction as
syntax, one lemma per constructor. -/

/-- The fields of the instruction's word: `rsv` is 0, the operation code is that of the table's row, and the legality check
names that row's operation. -/
def Sys2Proof.Laws.FieldsLegal.Statement (i : Sys2Proof.Instr) : Prop :=
  (Sys2Proof.fieldsOfInstr i).rsv = 0
    ∧ (Sys2Proof.fieldsOfInstr i).op = Sys2Proof.opcodeBits i
    ∧ ∃ op, (Sys2Proof.fieldsOfInstr i).check = .ok op ∧ Sys2Proof.Opcode.ofBits (Sys2Proof.opcodeBits i) = some op

theorem Sys2Proof.Laws.FieldsLegal.setColor (index : Sys2Proof.LedIndex) (r g b : Sys2Proof.Byte) :
    Sys2Proof.Laws.FieldsLegal.Statement (.setColor index r g b) :=
  ⟨rfl, rfl, .setColor, rfl, rfl⟩

theorem Sys2Proof.Laws.FieldsLegal.setColorPacked (index : Sys2Proof.LedIndex) (packed : Sys2Proof.Packed) :
    Sys2Proof.Laws.FieldsLegal.Statement (.setColorPacked index packed) :=
  ⟨rfl, rfl, .setColorPacked, rfl, rfl⟩

theorem Sys2Proof.Laws.FieldsLegal.clear : Sys2Proof.Laws.FieldsLegal.Statement .clear :=
  ⟨rfl, rfl, .clear, rfl, rfl⟩

theorem Sys2Proof.Laws.FieldsLegal.pack (r g b : Sys2Proof.Byte) :
    Sys2Proof.Laws.FieldsLegal.Statement (.pack r g b) :=
  ⟨rfl, rfl, .pack, rfl, rfl⟩

theorem Sys2Proof.Laws.FieldsLegal.showFrame : Sys2Proof.Laws.FieldsLegal.Statement .showFrame :=
  ⟨rfl, rfl, .showFrame, rfl, rfl⟩
end

