-- ==== Sys2Proof/Laws/Runs.lean ====
section
/-! SUPPORT. The induction over a run, said once, and the premises of a run hold of its ends. -/

namespace Sys2Proof.Machine

/-- What holds at the start of a run and is kept by every step holds at every moment of the run. -/
theorem IsRun.induct {r : Nat → State} (h : IsRun r) {P : State → Prop} (h0 : P (r 0))
    (hs : ∀ s t, P s → step s = .next t → P t) (n : Nat) : P (r n) := by
  induction n with
  | zero => exact h0
  | succ n ih => exact hs _ _ ih (h.1 n)

/-- The driver takes its steps at the end of a run. -/
theorem DriverSteps.drop {r : Nat → State} (h : DriverSteps r) (k : Nat) : DriverSteps fun n => r (k + n) := by
  intro n
  obtain ⟨m, h1, h2⟩ := h (k + n)
  refine ⟨m - k, by omega, ?_⟩
  have he : k + (m - k) = m := by omega
  simpa only [he] using h2

/-- The end of a run is a run. -/
theorem IsRun.drop {r : Nat → State} (h : IsRun r) (k : Nat) : IsRun fun n => r (k + n) :=
  ⟨fun n => h.1 (k + n), h.2.drop k⟩

/-- Fair ticks hold of the end of a run. -/
theorem FairTicks.drop {r : Nat → State} (h : FairTicks r) (k : Nat) : FairTicks fun n => r (k + n) := by
  intro n
  obtain ⟨m, h1, h2⟩ := h (k + n)
  refine ⟨m - k, by omega, ?_⟩
  have he : k + (m - k) = m := by omega
  simpa only [he] using h2

end Sys2Proof.Machine
end

