-- ==== Sys2Proof/Tests/Slice0.lean ====
section
/-! SUPPORT. The model's own tests: expected values from spec/95_test_vectors.md (V, P) or computed by hand from the rule
named, and for every statement with hypotheses a state and operands that meet them. -/

namespace Sys2Proof.Tests

open Sys2Proof Sys2Proof.Machine

/-! ## Helpers -/

/-- The test configurations TC0 to TC3 of 95_test_vectors.md. -/
def tc (n : Nat) : Params := { n := n, gap := 2, period := 10, high := 0x06#8, low := 0x03#8, rangePolicy := .reject }

/-- The smallest cells: a gap of one cell of three ticks. -/
def tiny (n : Nat) : Params := { n := n, gap := 1, period := 3, high := 0x02#8, low := 0x01#8, rangePolicy := .reject }

/-- One LED, a gap of `gap` cells, no index check. -/
def open1 (gap : Nat) : Params :=
  { n := 1, gap := gap, period := 10, high := 0x06#8, low := 0x03#8, rangePolicy := .unchecked }

/-- The reset state of an instance, with the moves to come. -/
def start (p : Params) (ms : List Move) : State := State.resetWith p 0 [] ms 0 []

/-- The reset state with a word placed. -/
def placed (p : Params) (w : Nat) : State := (start p []).withFetchWord 48 w

/-- The state with one move to come. -/
def on (m : Move) (s : State) : State := { s with sched := [m] }

/-- The property holds of the next state. -/
def ends (o : Result) (q : State → Bool) : Bool :=
  match o with
  | .next t => q t
  | .fault _ => false
  | .refused _ => false

/-! ## Well-formedness: an ill-formed term for each check -/

/-- R81: `op` 0x0, 0x6 and 0xF are reserved. -/
theorem test_reserved_op_refused :
    (Fields.mk 0x0 0 0 0).check = .error .reservedOp ∧ (Fields.mk 0x6 0 0 0).check = .error .reservedOp
      ∧ (Fields.mk 0xF 0 0 0xFFFFFF).check = .error .reservedOp := by decide

/-- R81: `rsv` not 0, also with an index out of range. -/
theorem test_reserved_field_refused :
    (Fields.mk 0x1 1 0 0x010203).check = .error .reservedField
      ∧ (Fields.mk 0x1 8 5 0x010203).check = .error .reservedField := by decide

/-- R81: `index` not 0 in CLEAR, PACK and SHOW. -/
theorem test_index_refused :
    (Fields.mk 0x3 0 1 0).check = .error .indexNotZero ∧ (Fields.mk 0x4 0 1 0x010203).check = .error .indexNotZero
      ∧ (Fields.mk 0x5 0 1 0).check = .error .indexNotZero := by decide

/-- R81: `data` not 0 in CLEAR and SHOW. -/
theorem test_data_refused :
    (Fields.mk 0x3 0 0 1).check = .error .dataNotZero ∧ (Fields.mk 0x5 0 0 1).check = .error .dataNotZero := by decide

theorem test_ill_formed_fields : (Fields.mk 0x3 0 0 1).wellFormed = false := by decide

/-! ## Decoding: words written out from the encoding -/

/-- `0001 0000 iiii…` (R72): index 0x0123, r 0x12, g 0x34, b 0x56. -/
theorem test_decode_set_color :
    decode 0b000100000000000100100011000100100011010001010110#48 = .ok (.setColor 0x0123 0x12 0x34 0x56) := by decide

/-- `0010 0000 iiii… pppp…` (R72, V13). -/
theorem test_decode_set_color_packed :
    decode 0b001000000000000000000001111111111000000000000000#48 = .ok (.setColorPacked 1 0xFF8000) := by decide

theorem test_decode_clear : decode 0b001100000000000000000000000000000000000000000000#48 = .ok .clear := by decide

/-- `0100 0000`, 16 zeros, r, g, b (R72, V14). -/
theorem test_decode_pack :
    decode 0b010000000000000000000000000100100011010001010110#48 = .ok (.pack 0x12 0x34 0x56) := by decide

theorem test_decode_show : decode 0b010100000000000000000000000000000000000000000000#48 = .ok .showFrame := by decide

/-- V16: the ten illegal words. -/
theorem test_illegal_words :
    ([0x000000000000, 0x600000000000, 0xF00000FFFFFF, 0x110000010203, 0x180005010203, 0x300000000001, 0x300001000000,
      0x400001010203, 0x500000000001, 0x500001000000].map fun w => decodeTableWord 48 w) = List.replicate 10 none := by
  decide

/-- V11, V15: encodings with an index. -/
theorem test_encode :
    encode (.setColor 2 0 0 255) = 0x1000020000FF#48 ∧ encode (.setColorPacked 65535 0xFFFFFF) = 0x20FFFFFFFFFF#48 := by
  decide

/-- 20_memory.md R57: the most significant byte first. -/
theorem test_bytes_of_word : bytesOfWord 0x100000123456#48 = [0x10, 0x00, 0x00, 0x12, 0x34, 0x56] := by decide

/-! ## Instructions, one step each -/

/-- V8 in TC1: the 26 bytes of the buffer and the response. -/
theorem test_set_color_bytes :
    ends (step (placed (tc 1) 0x100000123456)) (fun t =>
      decide (t.frame =
        [3, 3, 6, 6, 3, 6, 3, 3] ++ [3, 3, 3, 6, 3, 3, 6, 3] ++ [3, 6, 3, 6, 3, 6, 6, 3] ++ [0, 0])
      && decide (t.responses = [0x0000000#28])) = true := by decide +kernel

/-- V15: `index = N` answers 2000000 and sets `ERR[1]`. -/
theorem test_set_color_range :
    ends (step (placed (tc 1) 0x100001010203)) (fun t =>
      decide (t.responses = [0x2000000#28]) && decide (t.err = 0b10#2) && decide (t.mem = [])) = true := by decide +kernel

/-- V13: LED 1 with the packed colour 0xFF8000, green first. -/
theorem test_set_color_packed_bytes :
    ends (step (placed (tc 2) 0x200001FF8000)) (fun t =>
      decide (t.slice 1 = [6, 3, 3, 3, 3, 3, 3, 3] ++ List.replicate 8 6 ++ List.replicate 8 3)
      && decide (t.readByte 48 = 0) && decide (t.readByte 49 = 0)) = true := by decide +kernel

/-- V15: the largest index. -/
theorem test_set_color_packed_range :
    ends (step (placed (tc 1) 0x20FFFFFFFFFF)) (fun t =>
      decide (t.responses = [0x2000000#28]) && decide (t.err = 0b10#2)) = true := by decide +kernel

/-- V13: CLEAR in TC2. -/
theorem test_clear_bytes :
    ends (step (placed (tc 2) 0x300000000000)) (fun t =>
      decide (t.frame = List.replicate 48 3 ++ [0, 0]) && decide (t.responses = [0x0000000#28])) = true := by
  decide +kernel

/-- P4: CLEAR with no LED. -/
theorem test_clear_no_leds :
    ends (step (placed (tc 0) 0x300000000000)) (fun t => decide (t.frame = [0, 0]) && decide (t.mem = [])) = true := by
  decide +kernel

/-- V14. -/
theorem test_pack_response :
    ends (step (placed (tc 1) 0x400000123456)) (fun t => decide (t.responses = [0x0123456#28])) = true := by
  decide +kernel

/-- V14: red alone. -/
theorem test_pack_red :
    ends (step (placed (tc 1) 0x400000FF0000)) (fun t => decide (t.responses = [0x0FF0000#28])) = true := by
  decide +kernel

/-- R106: SHOW is accepted, not yet answered. -/
theorem test_show_arms :
    ends (step (placed (tc 1) 0x500000000000)) (fun t =>
      decide (t.txState.phase = .arming) && t.busy && decide (t.showNo = 1) && decide (t.responses = [])) = true := by
  decide +kernel

/-- V16: legality comes before the index check, so `ERR[0]` only. -/
theorem test_illegal_before_range :
    ends (step (placed (tc 1) 0x180005010203)) (fun t =>
      decide (t.responses = [0x1000000#28]) && decide (t.err = 0b01#2)) = true := by decide +kernel

/-- V17: where the machine goes on after the writes outside the block, those at 24 and 25 have been made, and the 22 at 26 to
47 stand in the record. -/
theorem test_unchecked_writes_the_gap (t : State) (h : exec (.setColor 1 0 0 0) (start (open1 2) []) = .next t) :
    t.readByte 24 = 0x03#8 ∧ t.readByte 25 = 0x03#8 ∧ t.outside.map (fun c => c.1) = List.range' 26 22
      ∧ t.responses = [0x0000000#28] ∧ t.err = 0#2 := by
  have he := (setColourAt_of_unchecked (index := 1) (r := 0) (g := 0) (b := 0) (s := start (open1 2) []) rfl).symm.trans h
  split at he
  · cases he
  · obtain rfl := Host.Outcome.next.inj he
    decide +kernel

/-- V17: it stops only by the fault. -/
theorem test_unchecked_stop :
    (∃ t, exec (.setColor 1 0 0 0) (start (open1 2) []) = .next t)
      ∨ exec (.setColor 1 0 0 0) (start (open1 2) []) = .fault .writeOutsideBuffer := by
  refine (?_ : (∃ t, setColourAt 1 0 0 0 (start (open1 2) []) = .next t)
    ∨ setColourAt 1 0 0 0 (start (open1 2) []) = .fault .writeOutsideBuffer)
  rw [setColourAt_of_unchecked rfl]
  split
  · exact .inr rfl
  · exact .inl ⟨_, rfl⟩

/-! ## The streamer -/

/-- A buffer with one LED cleared and then one bit set: byte 1 is `HIGH`, the other LED bytes are `LOW`. -/
def tinyMem : List Host.Cell :=
  Memory.store (tiny 1) (Memory.storeAll (tiny 1) [] (clearCells (tiny 1))) (1, 0x02#8)

/-- The first show of that buffer (`L` is 25, the frame 75 ticks), in the driver's state `tx`, after `n` ticks with the timer
running. -/
def shown (tx : TxState) (timEn dmaEn done dout : Bool) (n : Nat) : State :=
  let base : State := { start (tiny 1) [] with mem := tinyMem, txState := tx, showNo := 1 }
  let level : Nat → Bool := fun t => wave (base.readByte (min (t / 3) 24)) (t % 3)
  let ptr := min 25 ((n + 2) / 3)
  { base with
    timEn := timEn
    dmaEn := dmaEn
    done := done
    dout := dout
    cnt := n % 3
    ccr := if n = 0 then 0#8 else base.readByte (ptr - 1)
    dmaPtr := ptr
    dmaCnt := 25 - ptr
    stream := (List.range ptr).map fun a => (1, base.readByte a)
    line := (List.range n).map fun t => (1, level t) }

/-- The timer and the channel run and the driver polls. -/
def polling (n : Nat) (done dout : Bool) : State := shown (.draining .poll) true true done dout n

/-- A word waits while the driver polls. -/
def waiting : State := on .block { polling 4 false true with held := some 0#48 }

/-- The show is over but for its answer. -/
def finished : State := shown (.draining .returnToIdle) false false false false 76

/-- R132 with PERIOD 10, V18: cell 0 of V8 is `1110000000`, cell 2 is `1111110000`. -/
theorem test_wave_levels :
    (List.range 10).map (wave 0x03#8) = [true, true, true, false, false, false, false, false, false, false]
      ∧ (List.range 10).map (wave 0x06#8) = [true, true, true, true, true, true, false, false, false, false] := by
  decide

/-- R131: the opening tick of cell 1 copies byte 1 and raises the pin. -/
theorem test_tick_opens_cell :
    ends (tick (polling 3 false false)) (fun t =>
      decide (t.ccr = 0x02#8) && decide (t.dmaPtr = 2) && decide (t.dmaCnt = 23) && t.dout && decide (t.cnt = 1)) = true := by
  decide +kernel

/-- R112, R140: tick 75 finds no byte left and sets `DONE`; the line stays low. -/
theorem test_tick_sets_done :
    ends (tick (polling 75 false false)) (fun t =>
      t.done && decide (t.dmaPtr = 25) && ! t.dout && decide (t.streamOf 1 = t.frame)) = true := by decide +kernel

/-- R114: the last completion step answers the SHOW. -/
theorem test_return_answers :
    ends (blockMove finished) (fun t => decide (t.txState = .idle) && decide (t.responses = [0x0000000#28])) = true := by
  decide +kernel

/-- V20: a tick in `Idle` does nothing. -/
theorem test_idle_tick : ends (tick (start (tc 1) [])) (fun t => decide (t = start (tc 1) [])) = true := by decide +kernel

/-! ## Witnesses: encodings, formats -/

theorem test_witness_EncodeOfDecodeIsTheWord : decode 0x1000020000FF#48 = .ok (.setColor 2 0 0 255) := by decide

theorem test_witness_IllegalWordsAndTheirEffect : decode 0x600000000000#48 = .error .reservedOp := by decide

theorem test_witness_ByteWidePathCarriesTheWord :
    wordOfBytes [0x10, 0x00, 0x00, 0x12, 0x34, 0x56] = some 0x100000123456#48 := by decide

/-- The last slot of the first LED and the first of the second. -/
theorem test_witness_SlotIsInjectiveOntoTheLedRegion : slot 0 2 0 = 23 ∧ slot 1 0 7 = 24 := by decide

/-- Legal parameters at the bounds: the smallest cells, and the most LEDs with the largest bytes. -/
theorem test_witness_ParamsOK :
    paramsOK (tiny 0) = true
      ∧ paramsOK { n := 65535, gap := 1, period := 256, high := 0xFF#8, low := 0x01#8, rangePolicy := .reject } = true := by
  decide

/-- One parameter set outside each constraint. -/
theorem test_witness_ParametersOutsideTheConstraintsAreRefused :
    paramsOK { tc 1 with n := 65536 } = false ∧ paramsOK { tc 1 with gap := 0 } = false
      ∧ paramsOK { tc 1 with low := 0x00#8 } = false ∧ paramsOK { tc 1 with low := 0x06#8 } = false
      ∧ paramsOK { tc 1 with period := 6 } = false
      ∧ paramsOK (start { tc 1 with gap := 0 } []).cfg = false := by decide

theorem test_witness_TimingClassOfABit : paramsOK (tc 1) = true ∧ timingClass (tc 1) true = 0x06#8 := by decide

theorem test_witness_DecodedClassIsTheBit :
    paramsOK (tc 1) = true ∧ decodeClass (tc 1) 0x03#8 = some false ∧ decodeClass (tc 1) 0x00#8 = none := by decide

theorem test_witness_CellsOnTheLine : paramsOK (tiny 1) = true := by decide

/-! ## Witnesses: the encoder -/

/-- The first and the last index below `N`, the first index at `N`, and an illegal word (V16). -/
theorem test_witness_SetColorWritesItsSlice :
    (0#16).toNat < (start (tc 3) []).cfg.n ∧ (2#16).toNat < (start (tc 3) []).cfg.n
      ∧ (start (tc 3) []).cfg.rangePolicy = .reject ∧ (start (tc 3) []).cfg.n ≤ (3#16).toNat
      ∧ (0x180005010203#48).extractLsb' 44 4 = 0x1#4 ∧ (0x180005010203#48).extractLsb' 40 4 ≠ 0#4 := by decide

theorem test_witness_SetColorPackedWritesItsSlice :
    (2#16).toNat < (start (tc 3) []).cfg.n ∧ (start (tc 3) []).cfg.rangePolicy = .reject
      ∧ (start (tc 3) []).cfg.n ≤ (3#16).toNat
      ∧ (0x280005010203#48).extractLsb' 44 4 = 0x2#4 ∧ (0x280005010203#48).extractLsb' 40 4 ≠ 0#4 := by decide

theorem test_witness_SetColorRoundTrip :
    paramsOK (start (tc 3) []).cfg = true ∧ (2#16).toNat < (start (tc 3) []).cfg.n := by decide

/-- `index = N`, the largest index, and index 0 with no LED. -/
theorem test_witness_IndexOutOfRangeIsRejected :
    (start (tc 1) []).cfg.rangePolicy = .reject ∧ (start (tc 1) []).cfg.n ≤ (1#16).toNat
      ∧ (start (tc 1) []).cfg.n ≤ (65535#16).toNat ∧ (start (tc 0) []).cfg.n ≤ (0#16).toNat := by decide

/-- A gap of 24 cells takes the slice of index 1, a gap of 23 does not. -/
theorem test_witness_UncheckedIndexWritesBeyondTheLedRegion :
    (start (open1 24) []).cfg.rangePolicy = .unchecked ∧ (start (open1 24) []).cfg.n ≤ (1#16).toNat
      ∧ (1#16).toNat * 24 + 24 ≤ bufLen (start (open1 24) []).cfg
      ∧ ¬ (1#16).toNat * 24 + 24 ≤ bufLen (start (open1 23) []).cfg
      ∧ (cellsOutside (open1 23) (sliceCells (open1 23) 1 0 0 0)).length = 1
      ∧ ends (exec (.setColor 1 0 0 0) (start (open1 24) [])) (fun t => decide (t.readByte 47 = 0x03#8)) = true := by
  decide +kernel

/-- V16. -/
theorem test_witness_ClearMakesEveryLedBlack :
    paramsOK (start (tc 3) []).cfg = true ∧ Memory.wf (tc 3) (start (tc 3) []).mem ∧ (start (tc 0) []).cfg.n = 0
      ∧ (0x300000000001#48).extractLsb' 44 4 = 0x3#4 ∧ (0x300000000001#48).extractLsb' 0 24 ≠ 0#24
      ∧ (0x300001000000#48).extractLsb' 24 16 ≠ 0#16 ∧ (0x310000000000#48).extractLsb' 40 4 ≠ 0#4 := by decide

theorem test_witness_OperationsDefinedByExpansion : paramsOK (start (tc 3) []).cfg = true := by decide

theorem test_witness_SecondColourOverwritesTheFirst :
    paramsOK (start (tc 1) []).cfg = true ∧ Memory.wf (start (tc 1) []).cfg (start (tc 1) []).mem
      ∧ (0#16).toNat < (start (tc 1) []).cfg.n := by decide

theorem test_witness_PackAnswersThePackedColour :
    decode 0x400000FF0000#48 = .ok (.pack 255 0 0) ∧ (0x400001010203#48).extractLsb' 44 4 = 0x4#4
      ∧ (0x400001010203#48).extractLsb' 24 16 ≠ 0#16 ∧ (0x410000000000#48).extractLsb' 40 4 ≠ 0#4 := by decide

/-- One operation that is answered `OK` and one that is answered `RANGE`. -/
theorem test_witness_EncoderOperationsLeaveTheRestAlone :
    (Instr.pack 1 2 3 ≠ .showFrame ∧ ∃ t, exec (.pack 1 2 3) (start (tc 1) []) = .next t
      ∧ t.responses ≠ (start (tc 1) []).responses ++ [0x2000000#28])
    ∧ (Instr.setColor 1 1 2 3 ≠ .showFrame ∧ ∃ t, exec (.setColor 1 1 2 3) (start (tc 1) []) = .next t
      ∧ t.responses = (start (tc 1) []).responses ++ [0x2000000#28]) :=
  ⟨⟨by decide, _, rfl, by decide⟩, ⟨by decide, _, rfl, by decide⟩⟩

/-! ## Witnesses: the port -/

theorem test_witness_StepRunsTheAcceptedInstruction :
    paramsOK (placed (tc 1) 0x500000000000).cfg = true ∧ (placed (tc 1) 0x500000000000).nextMove = .block
      ∧ (placed (tc 1) 0x500000000000).txState = .idle
      ∧ (placed (tc 1) 0x500000000000).held = some 0x500000000000#48
      ∧ decode 0x500000000000#48 = .ok .showFrame := by decide

theorem test_witness_PlacedInstructionRunsNext : paramsOK State.reset.cfg = true := by decide

/-- An illegal word; and an index out of range in either operation. -/
theorem test_witness_FaultEntry :
    (paramsOK (placed (tc 1) 0x180005010203).cfg = true ∧ (placed (tc 1) 0x180005010203).nextMove = .block
      ∧ (placed (tc 1) 0x180005010203).txState = .idle
      ∧ (placed (tc 1) 0x180005010203).held = some 0x180005010203#48
      ∧ decode 0x180005010203#48 = .error .reservedField)
    ∧ (paramsOK (placed (tc 1) 0x100001010203).cfg = true
      ∧ (placed (tc 1) 0x100001010203).cfg.rangePolicy = .reject
      ∧ (placed (tc 1) 0x100001010203).nextMove = .block ∧ (placed (tc 1) 0x100001010203).txState = .idle
      ∧ (placed (tc 1) 0x100001010203).held = some 0x100001010203#48
      ∧ decode 0x100001010203#48 = .ok (.setColor 1 1 2 3)
      ∧ (placed (tc 1) 0x100001010203).cfg.n ≤ (1#16).toNat)
    ∧ ((placed (tc 1) 0x20FFFFFFFFFF).held = some 0x20FFFFFFFFFF#48
      ∧ decode 0x20FFFFFFFFFF#48 = .ok (.setColorPacked 65535 0xFFFFFF)
      ∧ (placed (tc 1) 0x20FFFFFFFFFF).cfg.n ≤ (65535#16).toNat) := by decide

/-- A reset of a state with a flag set; and a step that sets each flag. -/
theorem test_witness_FaultFlagsAreSticky :
    (∃ t, step { start (tc 1) [.reset] with err := 0b11#2 } = .next t
      ∧ ({ start (tc 1) [.reset] with err := 0b11#2 } : State).nextMove = .reset ∧ t.err = 0#2)
    ∧ (∃ t, step (placed (tc 1) 0x000000000000) = .next t ∧ (placed (tc 1) 0x000000000000).nextMove ≠ .reset
      ∧ t.err = 0b01#2)
    ∧ ∃ t, step (placed (tc 1) 0x100001010203) = .next t ∧ (placed (tc 1) 0x100001010203).nextMove ≠ .reset
      ∧ t.err = 0b10#2 :=
  ⟨⟨_, rfl, by decide, by decide⟩, ⟨_, rfl, by decide, by decide⟩, ⟨_, rfl, by decide, by decide⟩⟩

/-- A response with a result that is not 0. -/
theorem test_witness_ResponsesAreThoseOfTheSpec :
    ∃ t, step (placed (tc 1) 0x400000123456) = .next t ∧ (placed (tc 1) 0x400000123456).nextMove ≠ .reset
      ∧ t.responses = (placed (tc 1) 0x400000123456).responses ++ [0x0#4 ++ 0x123456#24] :=
  ⟨_, rfl, by decide, by decide⟩

/-- A word held while the driver polls; a word taken in `Idle`; a word that waits in `Idle` for the block's move. -/
theorem test_witness_PortHoldsWhileBusy :
    (∃ t, step waiting = .next t
      ∧ waiting.nextMove ≠ .reset
      ∧ t.held = some 0#48)
    ∧ (∃ t, step (placed (tc 1) 0x400000123456) = .next t ∧ (placed (tc 1) 0x400000123456).held ≠ none ∧ t.held = none)
    ∧ ∃ t, step { start (tc 1) [.host] with held := some 0#48, program := [1#48] } = .next t ∧ t.held = some 0#48 :=
  ⟨⟨_, rfl, by decide, by decide⟩, ⟨_, rfl, by decide, by decide⟩, ⟨_, rfl, by decide⟩⟩

/-- The three cases: a word is presented, a word is held, no word is left. -/
theorem test_witness_HostPresentsOneWordAtATime :
    paramsOK (tc 1) = true
    ∧ (({ start (tc 1) [.host] with program := [1#48] } : State).nextMove = .host
      ∧ ({ start (tc 1) [.host] with program := [1#48] } : State).held = none
      ∧ ({ start (tc 1) [.host] with program := [1#48] } : State).program = [1#48])
    ∧ (({ start (tc 1) [.host] with held := some 1#48 } : State).nextMove = .host
      ∧ ({ start (tc 1) [.host] with held := some 1#48 } : State).held = some 1#48)
    ∧ (start (tc 1) [.host]).nextMove = .host ∧ (start (tc 1) [.host]).program = [] := by decide

/-- A step outside `Idle`; a step in `Idle` that changes the buffer. -/
theorem test_witness_BufferChangesOnlyInIdle :
    (∃ t, step (on .block finished) = .next t
      ∧ (on .block finished).nextMove ≠ .reset
      ∧ (on .block finished).txState ≠ .idle)
    ∧ ∃ t, step (placed (tiny 1) 0x300000000000) = .next t ∧ (placed (tiny 1) 0x300000000000).nextMove ≠ .reset
      ∧ t.mem ≠ (placed (tiny 1) 0x300000000000).mem :=
  ⟨⟨_, rfl, by decide, by decide⟩, ⟨_, rfl, by decide, by decide⟩⟩

theorem test_witness_NoStepChangesAParameter : ∃ t, step (start (tc 1) [.reset]) = .next t := ⟨_, rfl⟩

/-! ## Witnesses: the driver and the streamer -/

theorem test_witness_ArmingWritesInOrder :
    (shown (.arming .resetCounter) false false false false 0).txState = .arming .resetCounter
      ∧ (shown (.arming .resetCounter) false false false false 0).timEn = false := by decide

theorem test_witness_DrainingPollsTheFlag :
    (shown .transmitting true true false false 0).txState = .transmitting
      ∧ (polling 4 false true).txState = .draining .poll ∧ (polling 4 false true).done = false
      ∧ (polling 76 true false).done = true := by decide

theorem test_witness_CompletionWritesInOrder :
    (shown (.draining .disableDma) true true true false 76).txState = .draining .disableDma := by decide

/-- The five cases of the tick. -/
theorem test_witness_TickOfTheStreamer :
    (start (tc 1) []).timEn = false
    ∧ ((polling 4 false true).timEn = true ∧ (polling 4 false true).cnt ≠ 0)
    ∧ ((polling 3 false false).timEn = true ∧ (polling 3 false false).cnt = 0 ∧ (polling 3 false false).dmaEn = true
      ∧ 0 < (polling 3 false false).dmaCnt ∧ (polling 3 false false).dmaPtr < bufLen (polling 3 false false).cfg)
    ∧ ((polling 75 false false).cnt = 0 ∧ (polling 75 false false).dmaEn = true ∧ (polling 75 false false).dmaCnt = 0)
    ∧ ((shown (.draining .disableTimer) true false true false 78).timEn = true
      ∧ (shown (.draining .disableTimer) true false true false 78).cnt = 0
      ∧ (shown (.draining .disableTimer) true false true false 78).dmaEn = false) := by decide

/-- One step of each kind of transition, and one without. -/
theorem test_witness_DriverMovesOnlyAlongItsCycle :
    (∃ t, step (placed (tc 1) 0x500000000000) = .next t ∧ (placed (tc 1) 0x500000000000).nextMove ≠ .reset
      ∧ t.txState = .arming .resetCounter)
    ∧ (∃ t, step (on .block (shown (.arming .enableTimer) false true false false 0)) = .next t
      ∧ (on .block (shown (.arming .enableTimer) false true false false 0)).nextMove ≠ .reset ∧ t.txState = .transmitting)
    ∧ (∃ t, step (on .block (shown .transmitting true true false false 0)) = .next t
      ∧ (on .block (shown .transmitting true true false false 0)).nextMove ≠ .reset ∧ t.txState = .draining .poll)
    ∧ (∃ t, step (on .block finished) = .next t ∧ (on .block finished).nextMove ≠ .reset ∧ t.txState = .idle)
    ∧ ∃ t, step (on .tick (polling 4 false true)) = .next t ∧ (on .tick (polling 4 false true)).nextMove ≠ .reset
      ∧ t.txState.phase = .draining :=
  ⟨⟨_, rfl, by decide, by decide⟩, ⟨_, rfl, by decide, by decide⟩, ⟨_, rfl, by decide, by decide⟩,
    ⟨_, rfl, by decide, by decide⟩, ⟨_, rfl, by decide, by decide⟩⟩

/-- The three ways the pin changes. -/
theorem test_witness_PinChangesOnlyInATickOrCompletion :
    (∃ t, step (on .tick (polling 3 false false)) = .next t ∧ t.dout ≠ (on .tick (polling 3 false false)).dout)
    ∧ (∃ t, step (on .block (shown (.draining .disableTimer) true false true true 76)) = .next t
      ∧ t.dout ≠ (on .block (shown (.draining .disableTimer) true false true true 76)).dout)
    ∧ ∃ t, step (on .reset (polling 4 false true)) = .next t ∧ t.dout ≠ (on .reset (polling 4 false true)).dout :=
  ⟨⟨_, rfl, by decide⟩, ⟨_, rfl, by decide⟩, ⟨_, rfl, by decide⟩⟩

theorem test_witness_ResetEvent :
    paramsOK (start (tc 1) [.reset]).cfg = true ∧ (start (tc 1) [.reset]).nextMove = .reset := by decide

/-! ## Witnesses: states that meet the invariants -/

/-- Nothing but the gap: the first show of a strip without LEDs, over but for its answer. -/
def finishedEmpty : State :=
  { start (tiny 0) [] with
    txState := .draining .returnToIdle
    cnt := 1
    dmaPtr := 1
    showNo := 1
    stream := [(1, 0x00#8)]
    line := List.replicate 4 (1, false) }

/-- Rounds of a tick and a block's move. -/
def rounds (n : Nat) : List (List Move) := List.replicate n [.tick, .block]

theorem test_rounds_fair (n : Nat) : ∀ ms ∈ rounds n, FairRound ms := by
  intro ms h
  rw [List.eq_of_mem_replicate h]
  exact ⟨by decide, by decide, by decide⟩

/-- An idle strip without LEDs under fair ticks, and its first show. -/
def idleEmpty : State := start (tiny 0) (rounds 17).flatten

def armingEmpty : State := { idleEmpty with txState := .arming .resetCounter, showNo := 1 }

/-- With a gap of one cell the gap region is one byte. -/
theorem test_gap_of_one_cell (s : State) (hg : s.cfg.gap = 1) (h : s.readByte (ledEnd s.cfg) = 0x00#8) : GapZero s := by
  intro a h1 h2
  have : a = ledEnd s.cfg := by unfold bufLen at h2; omega
  rw [this, h]

theorem test_first_show_stream (s : State) (w : DrainWrite) (hx : s.txState = .draining w) (hn : s.showNo = 1)
    (h1 : ∀ e ∈ s.stream, e.1 = 1) (h2 : s.streamOf 1 = (List.range s.dmaPtr).map s.readByte) : StreamOK s := by
  refine ⟨fun e he => by rw [hn, h1 e he]; decide, fun k hk => ?_, ?_⟩
  · obtain ⟨hk1, hk2 | ⟨-, hk2⟩⟩ := hk
    · omega
    · rw [hx] at hk2; cases hk2
  · rw [hx, hn]; exact ⟨by decide, h2⟩

theorem test_first_show_line (s : State) (w : DrainWrite) (hx : s.txState = .draining w) (hn : s.showNo = 1)
    (h1 : ∀ e ∈ s.line, e.1 = 1) (h2 : LineProgress s (s.lineOf 1).length)
    (h3 : s.done = true ∨ w = .returnToIdle ↔ bufLen s.cfg * s.cfg.period < (s.lineOf 1).length) : LineOK s := by
  refine ⟨fun e he => by rw [hn, h1 e he]; decide, fun k hk => ?_, ?_⟩
  · obtain ⟨hk1, hk2 | ⟨-, hk2⟩⟩ := hk
    · omega
    · rw [hx] at hk2; cases hk2
  · rw [hx, hn]; exact ⟨by decide, h2, h3⟩

/-- The idle strip meets all three. -/
theorem test_idle_invariants : BlockOK idleEmpty ∧ StreamOK idleEmpty ∧ LineOK idleEmpty := by
  refine ⟨⟨by decide, by decide, fun _ => test_gap_of_one_cell _ rfl (by decide), by decide, by decide, by decide, ?_⟩,
    ⟨by decide, fun k hk => ?_, trivial⟩, ⟨by decide, fun k hk => ?_, trivial⟩⟩
  · exact ⟨rfl, rfl, rfl, rfl⟩
  · obtain ⟨hk1, hk2 | ⟨hk2, -⟩⟩ := hk <;> simp [idleEmpty, start, State.resetWith] at hk2; omega
  · obtain ⟨hk1, hk2 | ⟨hk2, -⟩⟩ := hk <;> simp [idleEmpty, start, State.resetWith] at hk2; omega

theorem test_arming_invariant : BlockOK armingEmpty := by
  refine ⟨by decide, by decide, fun _ => test_gap_of_one_cell _ rfl (by decide), by decide, by decide, by decide, ?_⟩
  exact ⟨rfl, rfl, rfl, by decide, by decide, by decide, by decide⟩

theorem test_finished_empty_invariants : BlockOK finishedEmpty ∧ StreamOK finishedEmpty ∧ LineOK finishedEmpty := by
  refine ⟨⟨by decide, by decide, fun _ => test_gap_of_one_cell _ rfl (by decide), by decide, by decide, by decide, ?_⟩,
    test_first_show_stream _ .returnToIdle rfl rfl (by decide) (by decide +kernel),
    test_first_show_line _ .returnToIdle rfl rfl (by decide) (by unfold LineProgress; decide +kernel) (by decide)⟩
  exact ⟨by decide, by decide, by decide, by decide, by decide, by decide, by decide, by decide⟩

theorem test_finished_invariants : BlockOK finished ∧ StreamOK finished ∧ LineOK finished := by
  refine ⟨⟨by decide, by decide +kernel, fun _ => test_gap_of_one_cell _ rfl (by decide +kernel), by decide, by decide,
      by decide, ?_⟩,
    test_first_show_stream _ .returnToIdle rfl rfl (by decide +kernel) (by decide +kernel),
    test_first_show_line _ .returnToIdle rfl rfl (by decide +kernel) (by unfold LineProgress; decide +kernel)
      (by decide +kernel)⟩
  exact ⟨by decide, by decide, by decide, by decide, by decide, by decide, by decide, by decide⟩

/-- The first show after 4 ticks, at the end of its frame, and after the completion flag. -/
theorem test_polling_invariants :
    (BlockOK (polling 4 false true) ∧ StreamOK (polling 4 false true) ∧ LineOK (polling 4 false true))
    ∧ (BlockOK (polling 75 false false) ∧ LineOK (polling 75 false false))
    ∧ (BlockOK (polling 76 true false) ∧ LineOK (polling 76 true false)) := by
  refine ⟨⟨⟨by decide, by decide +kernel, fun _ => test_gap_of_one_cell _ rfl (by decide +kernel), by decide, by decide,
        by decide, ?_⟩,
      test_first_show_stream _ .poll rfl rfl (by decide +kernel) (by decide +kernel),
      test_first_show_line _ .poll rfl rfl (by decide +kernel) (by unfold LineProgress; decide +kernel) (by decide +kernel)⟩,
    ⟨⟨by decide, by decide +kernel, fun _ => test_gap_of_one_cell _ rfl (by decide +kernel), by decide, by decide,
        by decide, ?_⟩,
      test_first_show_line _ .poll rfl rfl (by decide +kernel) (by unfold LineProgress; decide +kernel) (by decide +kernel)⟩,
    ⟨⟨by decide, by decide +kernel, fun _ => test_gap_of_one_cell _ rfl (by decide +kernel), by decide, by decide,
        by decide, ?_⟩,
      test_first_show_line _ .poll rfl rfl (by decide +kernel) (by unfold LineProgress; decide +kernel) (by decide +kernel)⟩⟩
  all_goals exact ⟨by decide, by decide, by decide, by decide, by decide, by decide, by decide, by decide⟩

/-- The same state with one move to come meets the invariant. -/
theorem test_blockOK_on (m : Move) (s : State) (h : BlockOK s) : BlockOK (on m s) := h

theorem test_streamOK_on (m : Move) (s : State) (h : StreamOK s) : StreamOK (on m s) := h

theorem test_lineOK_on (m : Move) (s : State) (h : LineOK s) : LineOK (on m s) := h

theorem test_witness_EveryStepKeepsTheInvariant :
    BlockOK (on .tick (polling 4 false true)) ∧ ∃ t, step (on .tick (polling 4 false true)) = .next t :=
  ⟨test_polling_invariants.1.1, _, rfl⟩

theorem test_witness_EveryStepKeepsTheStream :
    BlockOK (on .tick (polling 4 false true)) ∧ StreamOK (on .tick (polling 4 false true))
      ∧ ∃ t, step (on .tick (polling 4 false true)) = .next t :=
  ⟨test_polling_invariants.1.1, test_polling_invariants.1.2.1, _, rfl⟩

theorem test_witness_EveryStepKeepsTheLine :
    BlockOK (on .tick (polling 4 false true)) ∧ LineOK (on .tick (polling 4 false true))
      ∧ ∃ t, step (on .tick (polling 4 false true)) = .next t :=
  ⟨test_polling_invariants.1.1, test_polling_invariants.1.2.2, _, rfl⟩

theorem test_witness_ResetStateMeetsTheInvariants : AfterReset idleEmpty ∧ paramsOK idleEmpty.cfg = true := ⟨rfl, rfl⟩

/-- Under `reject`; and a state under `unchecked` whose step makes writes outside the buffer. -/
theorem test_witness_NoStepStopsUnderReject :
    (BlockOK idleEmpty ∧ idleEmpty.cfg.rangePolicy = .reject)
    ∧ BlockOK (placed (open1 2) 0x100001000000) := by
  refine ⟨⟨test_idle_invariants.1, rfl⟩, ⟨by decide, by decide, fun h => ?_, by decide, by decide, by decide, ?_⟩⟩
  · cases h
  · exact ⟨rfl, rfl, rfl, rfl⟩

theorem test_witness_ShowAnsweredHasSentTheBuffer :
    BlockOK (on .block finished) ∧ StreamOK (on .block finished) ∧ LineOK (on .block finished)
      ∧ (on .block finished).txState = .draining .returnToIdle ∧ (on .block finished).nextMove = .block :=
  ⟨test_finished_invariants.1, test_finished_invariants.2.1, test_finished_invariants.2.2, rfl, rfl⟩

/-- Two states that differ in a flag and in the responses. -/
theorem test_witness_EqualBuffersGiveEqualStreams :
    BlockOK finished ∧ BlockOK { finished with err := 0b11#2 } ∧ StreamOK finished
      ∧ StreamOK { finished with err := 0b11#2 } ∧ finished.cfg = ({ finished with err := 0b11#2 } : State).cfg
      ∧ finished.txState = .draining .returnToIdle
      ∧ ({ finished with err := 0b11#2 } : State).txState = .draining .returnToIdle
      ∧ ∀ a, a < bufLen finished.cfg → finished.readByte a = ({ finished with err := 0b11#2 } : State).readByte a :=
  ⟨test_finished_invariants.1, test_finished_invariants.1, test_finished_invariants.2.1, test_finished_invariants.2.1,
    rfl, rfl, rfl, fun _ _ => rfl⟩

theorem test_witness_EmptyStripSendsOnlyTheGap :
    BlockOK finishedEmpty ∧ StreamOK finishedEmpty ∧ LineOK finishedEmpty ∧ finishedEmpty.cfg.rangePolicy = .reject
      ∧ finishedEmpty.cfg.n = 0 ∧ finishedEmpty.txState = .draining .returnToIdle :=
  ⟨test_finished_empty_invariants.1, test_finished_empty_invariants.2.1, test_finished_empty_invariants.2.2, rfl, rfl, rfl⟩

theorem test_witness_ShowEndsWithinFairRounds :
    BlockOK armingEmpty ∧ armingEmpty.sched = (rounds 17).flatten ++ [] ∧ (∀ ms ∈ rounds 17, FairRound ms)
      ∧ (bufLen armingEmpty.cfg + 1) * armingEmpty.cfg.period + 11 ≤ (rounds 17).length :=
  ⟨test_arming_invariant, by rw [List.append_nil]; rfl, test_rounds_fair 17, by decide⟩

theorem test_witness_ShowSendsTheBufferAndEnds :
    BlockOK idleEmpty ∧ StreamOK idleEmpty ∧ LineOK idleEmpty ∧ idleEmpty.txState = .idle
      ∧ idleEmpty.sched = (rounds 17).flatten ++ [] ∧ (∀ ms ∈ rounds 17, FairRound ms)
      ∧ (bufLen idleEmpty.cfg + 1) * idleEmpty.cfg.period + 11 ≤ (rounds 17).length :=
  ⟨test_idle_invariants.1, test_idle_invariants.2.1, test_idle_invariants.2.2, rfl, by rw [List.append_nil]; rfl,
    test_rounds_fair 17, by decide⟩

/-- A word waits, the host has another, and no tick comes. -/
def hanging : State := { waiting with program := [1#48], sched := [.block, .host] }

theorem test_witness_ShowHangsWithoutTicks :
    paramsOK hanging.cfg = true ∧ hanging.txState = .draining .poll ∧ hanging.done = false
      ∧ hanging.sched = [.block, .host] ++ [] ∧ Move.tick ∉ [Move.block, Move.host]
      ∧ Move.reset ∉ [Move.block, Move.host] ∧ hanging.held = some 0#48 := by decide

/-- With no word left an idle state is the end of a run; a tick, and the block's move, come next. -/
theorem test_witness_EndedRunStaysEnded :
    (BlockOK idleEmpty ∧ Ended idleEmpty ∧ idleEmpty.nextMove ≠ .reset)
      ∧ BlockOK (on .block idleEmpty) ∧ Ended (on .block idleEmpty) ∧ (on .block idleEmpty).nextMove ≠ .reset :=
  ⟨⟨test_idle_invariants.1, ⟨rfl, rfl, rfl⟩, by decide⟩, test_idle_invariants.1, ⟨rfl, rfl, rfl⟩, by decide⟩

theorem test_witness_OnePassPerShow :
    BlockOK (on .tick (polling 76 true false)) ∧ (on .tick (polling 76 true false)).dmaCnt = 0
      ∧ (∀ w, (on .tick (polling 76 true false)).txState ≠ .arming w)
      ∧ (∃ t, step (on .tick (polling 76 true false)) = .next t)
      ∧ (on .tick (polling 76 true false)).nextMove ≠ .reset :=
  ⟨test_polling_invariants.2.2.1, by decide, (fun w h => by cases h), ⟨_, rfl⟩, by decide⟩

/-- The counter of a running show: after 4 ticks of period 3. -/
theorem test_witness_TickOfTheStreamer_counter :
    BlockOK (polling 4 false true) ∧ LineOK (polling 4 false true) ∧ (polling 4 false true).timEn = true
      ∧ (polling 4 false true).cnt = 1 :=
  ⟨test_polling_invariants.1.1, test_polling_invariants.1.2.2, rfl, rfl⟩

/-- The opening of cell 1; and the last address with a byte too many still to send, which no run reaches. -/
theorem test_witness_BeatsReadInsideTheBuffer :
    (BlockOK (polling 4 false true) ∧ (polling 4 false true).timEn = true ∧ (polling 4 false true).dmaEn = true
      ∧ 0 < (polling 4 false true).dmaCnt)
    ∧ (({ polling 75 false false with dmaCnt := 1 } : State).timEn = true
      ∧ ({ polling 75 false false with dmaCnt := 1 } : State).cnt = 0
      ∧ ({ polling 75 false false with dmaCnt := 1 } : State).dmaEn = true
      ∧ 0 < ({ polling 75 false false with dmaCnt := 1 } : State).dmaCnt
      ∧ bufLen ({ polling 75 false false with dmaCnt := 1 } : State).cfg
          ≤ ({ polling 75 false false with dmaCnt := 1 } : State).dmaPtr) :=
  ⟨⟨test_polling_invariants.1.1, rfl, rfl, by decide⟩, by decide⟩

/-- The tick in which `DONE` rises, and one in which it does not. -/
theorem test_witness_DoneRisesAfterTheLastCell :
    (BlockOK (polling 75 false false) ∧ LineOK (polling 75 false false) ∧ (polling 75 false false).timEn = true
      ∧ (polling 75 false false).done = false ∧ ∃ t, tick (polling 75 false false) = .next t ∧ t.done = true)
    ∧ (BlockOK (polling 4 false true) ∧ LineOK (polling 4 false true) ∧ (polling 4 false true).timEn = true
      ∧ (polling 4 false true).done = false ∧ ∃ t, tick (polling 4 false true) = .next t ∧ t.done = false) :=
  ⟨⟨test_polling_invariants.2.1.1, test_polling_invariants.2.1.2, rfl, rfl, _, rfl, by decide⟩,
    ⟨test_polling_invariants.1.1, test_polling_invariants.1.2.2, rfl, rfl, _, rfl, by decide⟩⟩

theorem test_witness_LateDriverLeavesTheLineLow :
    BlockOK (polling 76 true false) ∧ LineOK (polling 76 true false)
      ∧ (polling 76 true false).cfg.rangePolicy = .reject ∧ (polling 76 true false).done = true
      ∧ ∃ t, tick (polling 76 true false) = .next t :=
  ⟨test_polling_invariants.2.2.1, test_polling_invariants.2.2.2, rfl, rfl, _, rfl⟩

/-- The first tick of the gap, and the tick of the last falling edge. -/
theorem test_witness_GapIsLowOnTheLine :
    BlockOK (polling 76 true false) ∧ LineOK (polling 76 true false)
      ∧ (polling 76 true false).cfg.rangePolicy = .reject ∧ (polling 76 true false).timEn = true
      ∧ (ledEnd (polling 76 true false).cfg * (polling 76 true false).cfg.period ≤ 72
        ∧ 72 < ((polling 76 true false).lineOf (polling 76 true false).showNo).length)
      ∧ 1 ≤ (polling 76 true false).cfg.n
      ∧ (ledEnd (polling 76 true false).cfg - 1) * (polling 76 true false).cfg.period
          + ((polling 76 true false).readByte (ledEnd (polling 76 true false).cfg - 1)).toNat = 70 :=
  ⟨test_polling_invariants.2.2.1, test_polling_invariants.2.2.2, rfl, rfl, by decide +kernel, by decide, by decide +kernel⟩

theorem test_witness_FrameIsReadBackFromTheLine :
    BlockOK finished ∧ LineOK finished ∧ finished.txState = .draining .returnToIdle
      ∧ (1 < bufLen finished.cfg ∧ (finished.readByte 1).toNat < finished.cfg.period)
      ∧ AllWritten finished ∧ 0 < finished.cfg.n := by
  refine ⟨test_finished_invariants.1, test_finished_invariants.2.2, rfl, by decide +kernel, ?_, by decide⟩
  unfold AllWritten
  decide +kernel

/-! ## Witness: a run of any length -/

/-- Idle, clean and with nothing to come from the host. -/
def Quiet (s : State) : Prop :=
  paramsOK s.cfg = true ∧ s.txState = .idle ∧ s.timEn = false ∧ s.held = none ∧ s.program = []

/-- Whatever moves, a quiet state is followed by a quiet state. -/
theorem test_quiet_step (s : State) (h : Quiet s) : ∃ t, step s = .next t ∧ Quiet t := by
  obtain ⟨h1, h2, h3, h4, h5⟩ := h
  refine (?_ : ∃ t, runStep s = .next t ∧ Quiet t)
  rw [runStep, if_pos h1]
  cases s.nextMove with
  | host => exact ⟨s.advance, by simp [runMove, State.present, h4, h5], by simp [Quiet, h1, h2, h3, h4, h5]⟩
  | block => exact ⟨s.advance, by simp [runMove, blockMove, h2, h4], by simp [Quiet, h1, h2, h3, h4, h5]⟩
  | tick => exact ⟨s.advance, by simp [runMove, tick, h3], by simp [Quiet, h1, h2, h3, h4, h5]⟩
  | reset => exact ⟨s.advance.resetBlock, rfl, by simp [Quiet, h1, h5]⟩

/-- The state after a step, the state itself where the step stops. -/
def after (s : State) : State :=
  match step s with
  | .next t => t
  | .fault _ => s
  | .refused _ => s

theorem test_after {s t : State} (h : step s = .next t) : after s = t := by rw [after, h]

/-- From a show of the empty strip that is over but for its answer: the answer, and then any moves at all. -/
def lastStep : Nat → State
  | 0 => on .block finishedEmpty
  | n + 1 => after (lastStep n)

theorem test_lastStep_quiet (n : Nat) : Quiet (lastStep (n + 1)) := by
  induction n with
  | zero => exact ⟨by decide, rfl, rfl, rfl, rfl⟩
  | succ n ih =>
    obtain ⟨t, h1, h2⟩ := test_quiet_step _ ih
    change Quiet (after (lastStep (n + 1)))
    rwa [test_after h1]

/-- From the reset state of the empty strip, any moves at all. -/
def idleRun : Nat → State
  | 0 => idleEmpty
  | n + 1 => after (idleRun n)

theorem test_idleRun_quiet (n : Nat) : Quiet (idleRun n) := by
  induction n with
  | zero => exact ⟨by decide, rfl, rfl, rfl, rfl⟩
  | succ n ih =>
    obtain ⟨t, h1, h2⟩ := test_quiet_step _ ih
    change Quiet (after (idleRun n))
    rwa [test_after h1]

theorem test_witness_ShowEndsOnEveryFairRun_afterReset :
    IsRun idleRun ∧ AfterReset (idleRun 0) ∧ paramsOK (idleRun 0).cfg = true ∧ FairTicks idleRun := by
  refine ⟨⟨fun n => ?_, fun n => ⟨n, Nat.le_refl n, .inl (test_idleRun_quiet n).2.1⟩⟩, rfl, rfl,
    fun n => ⟨n, Nat.le_refl n, .inl (test_idleRun_quiet n).2.2.1⟩⟩
  obtain ⟨t, h1, -⟩ := test_quiet_step _ (test_idleRun_quiet n)
  exact h1.trans (congrArg Host.Outcome.next (test_after h1).symm)

theorem test_witness_ShowEndsOnEveryFairRun :
    IsRun lastStep ∧ BlockOK (lastStep 0) ∧ FairTicks lastStep ∧ (lastStep 0).txState ≠ .idle := by
  refine ⟨⟨fun n => ?_, fun n => ⟨n + 1, Nat.le_succ n, .inl (test_lastStep_quiet n).2.1⟩⟩,
    test_finished_empty_invariants.1, fun n => ⟨n + 1, Nat.le_succ n, .inl (test_lastStep_quiet n).2.2.1⟩, by decide⟩
  cases n with
  | zero => rfl
  | succ n =>
    obtain ⟨t, h1, -⟩ := test_quiet_step _ (test_lastStep_quiet n)
    exact h1.trans (congrArg Host.Outcome.next (test_after h1).symm)

end Sys2Proof.Tests
end

section
/-! The parameters of an instance are not state (10_state.md R27): one frame lemma per agent, then the step. -/

namespace Sys2Proof.Machine

theorem exec_cfg {i : Instr} {s t : State} (h : exec i s = .next t) : t.cfg = s.cfg := by
  obtain ⟨cs, -, rfl⟩ | rfl | ⟨p, rfl⟩ | ⟨-, rfl⟩ := exec_next h
  · -- writes, answered OK
    simp
  · -- a range error
    exact State.raise_cfg s _
  · -- a packed colour
    exact State.respond_cfg s _ _
  · -- a show begun
    exact State.beginShow_cfg s

theorem tick_cfg {s t : State} (h : tick s = .next t) : t.cfg = s.cfg := by
  obtain ⟨-, rfl⟩ | ⟨-, -, rfl⟩ | ⟨-, -, -, -, rfl⟩ | ⟨-, -, -, -, -, rfl⟩ := tick_next h
  · -- the timer is disabled
    rfl
  · -- no cell is opened, or the channel is disabled
    exact driveTick_cfg s
  · -- the completion flag rises
    simp
  · -- a beat
    simp

/-- The port, the encoder and the driver together: they share the block's move. -/
theorem blockMove_cfg {s t : State} (h : blockMove s = .next t) : t.cfg = s.cfg := by
  obtain ⟨-, -, rfl⟩ | ⟨w, e, -, -, -, rfl⟩ | ⟨w, i, -, -, -, hx⟩ | ⟨w, -, rfl⟩ | ⟨-, rfl⟩ | ⟨w, -, rfl⟩ :=
    blockMove_next h
  · -- no word waits
    rfl
  · -- an illegal word is accepted
    simp
  · -- a legal word is executed
    exact (exec_cfg hx).trans (State.takeHeld_cfg s)
  · exact armStep_cfg s w
  · exact startDraining_cfg s
  · exact drainStep_cfg s w

/-- Settles O31: every agent's move keeps the parameters, and so does the choice of the move. -/
theorem noStepChangesAParameter : Obligations.NoStepChangesAParameter := by
  intro s t h
  obtain ⟨-, ⟨-, rfl⟩ | ⟨-, hb⟩ | ⟨-, ht⟩ | ⟨-, rfl⟩⟩ := step_next h
  · -- the host
    simp
  · -- the block
    exact (blockMove_cfg hb).trans (State.advance_cfg s)
  · -- the streamer
    exact (tick_cfg ht).trans (State.advance_cfg s)
  · -- reset
    simp

end Sys2Proof.Machine
end

section
/-! A command word over a byte-wide path (20_memory.md R57): splitting into bytes and joining them are inverse. -/

namespace Sys2Proof

/-- Only six bytes join to a word, and they do so in their order. -/
theorem wordOfBytes_eq_some {bs : List Byte} {w : CmdWord} (h : wordOfBytes bs = some w) :
    ∃ b5 b4 b3 b2 b1 b0 : Byte, bs = [b5, b4, b3, b2, b1, b0] ∧ w = b5 ++ b4 ++ b3 ++ b2 ++ b1 ++ b0 := by
  unfold wordOfBytes at h
  split at h
  case h_1 b5 b4 b3 b2 b1 b0 => exact ⟨b5, b4, b3, b2, b1, b0, rfl, (Option.some.inj h).symm⟩
  case h_2 => cases h

/-- Two adjacent slices of a word join to one longer slice of it, so the six bytes join to the whole word. -/
theorem wordOfBytes_bytesOfWord (w : CmdWord) : wordOfBytes (bytesOfWord w) = some w := by
  refine congrArg some ?_
  iterate 5 rw [BitVec.extractLsb'_append_extractLsb'_eq_extractLsb' (by rfl)]
  exact BitVec.extractLsb'_eq_self

/-- The number of six joined bytes: their digits in base 256, the first byte the most significant. -/
theorem append_bytes_toNat (b5 b4 b3 b2 b1 b0 : Byte) :
    (b5 ++ b4 ++ b3 ++ b2 ++ b1 ++ b0).toNat
      = ((((b5.toNat * 2 ^ 8 + b4.toNat) * 2 ^ 8 + b3.toNat) * 2 ^ 8 + b2.toNat) * 2 ^ 8 + b1.toNat) * 2 ^ 8
        + b0.toNat := by
  iterate 5 rw [toNat_append_eq]

/-- Each byte of the joined word is the digit at its place. -/
theorem bytesOfWord_append (b5 b4 b3 b2 b1 b0 : Byte) :
    bytesOfWord (b5 ++ b4 ++ b3 ++ b2 ++ b1 ++ b0) = [b5, b4, b3, b2, b1, b0] := by
  have h := append_bytes_toNat b5 b4 b3 b2 b1 b0
  simp only [bytesOfWord, List.cons.injEq, and_true]
  refine ⟨?_, ?_, ?_, ?_, ?_, ?_⟩ <;> apply BitVec.eq_of_toNat_eq <;>
    rw [BitVec.extractLsb'_toNat, h, Nat.shiftRight_eq_div_pow] <;> omega

theorem bytesOfWord_of_wordOfBytes {bs : List Byte} {w : CmdWord} (h : wordOfBytes bs = some w) : bytesOfWord w = bs := by
  obtain ⟨b5, b4, b3, b2, b1, b0, rfl, rfl⟩ := wordOfBytes_eq_some h
  exact bytesOfWord_append b5 b4 b3 b2 b1 b0

/-- Settles O6: the two round trips; the first and the last byte are the ends of the list of slices. -/
theorem byteWidePathCarriesTheWord : Obligations.ByteWidePathCarriesTheWord :=
  ⟨fun w => ⟨wordOfBytes_bytesOfWord w, rfl, rfl⟩, fun _ _ => bytesOfWord_of_wordOfBytes⟩

end Sys2Proof
end

section
/-! The packed colour (30_encoding.md R75, R76): its three fields, and its two spellings. -/

namespace Sys2Proof

@[simp] theorem redOf_packColour (r g b : Byte) : redOf (packColour r g b) = r :=
  (BitVec.extractLsb'_append_eq_of_le (by decide)).trans BitVec.extractLsb'_append_eq_left

@[simp] theorem greenOf_packColour (r g b : Byte) : greenOf (packColour r g b) = g :=
  (BitVec.extractLsb'_append_eq_of_le (by decide)).trans BitVec.extractLsb'_append_eq_right

@[simp] theorem blueOf_packColour (r g b : Byte) : blueOf (packColour r g b) = b :=
  BitVec.extractLsb'_append_eq_right

/-- The concatenation of R75 as the shifts of R75. -/
theorem packColour_eq_shiftLeft_or (r g b : Byte) :
    packColour r g b = (r.setWidth 24 <<< 16) ||| (g.setWidth 24 <<< 8) ||| b.setWidth 24 :=
  calc packColour r g b
    _ = (r ++ g ++ b).setWidth 24 := (BitVec.setWidth_eq _).symm
    _ = _ := BitVec.setWidth_append_append_eq_shiftLeft_setWidth_or

/-- Settles O7: the fields of a joined colour are its parts. -/
theorem packedColourLayout : Obligations.PackedColourLayout :=
  ⟨fun r g b => ⟨rfl, packColour_eq_shiftLeft_or r g b, redOf_packColour r g b, greenOf_packColour r g b,
    blueOf_packColour r g b⟩, by decide⟩

end Sys2Proof
end

section
/-! Which words decode to which operation, and which to none (30_encoding.md R72, R81). A row of the table is a mask and a
match of whole fields, so that selecting it is the legality check. -/

namespace Sys2Proof

/-- The operation code of a row of R72. -/
def Opcode.bits : Opcode → BitVec 4
  | .setColor => 0x1#4
  | .setColorPacked => 0x2#4
  | .clear => 0x3#4
  | .pack => 0x4#4
  | .showFrame => 0x5#4

theorem Opcode.ofBits_eq_some_iff {b : BitVec 4} {op : Opcode} : Opcode.ofBits b = some op ↔ b = op.bits := by
  cases op <;> revert b <;> decide

theorem Opcode.ofBits_eq_none_iff {b : BitVec 4} : Opcode.ofBits b = none ↔ b.toNat = 0 ∨ 6 ≤ b.toNat := by
  revert b
  decide

/-! ## The check and the decoder -/

/-- A code that names an operation leaves R81's conditions on the other three fields. -/
theorem check_eq_error_iff_of_ofBits {f : Fields} {op : Opcode} (h : Opcode.ofBits f.op = some op) :
    (∃ e, f.check = .error e) ↔
      f.rsv ≠ 0 ∨ (op.takesIndex = false ∧ f.index ≠ 0) ∨ (op.takesData = false ∧ f.data ≠ 0) := by
  have hok := check_eq_ok_iff f op
  have hexcl : (∃ e, f.check = .error e) ↔ f.check ≠ .ok op := by
    constructor
    · rintro ⟨e, he⟩ h'
      cases he.symm.trans h'
    · intro hne
      refine (check_ok_or_error f).resolve_left fun ⟨op', h'⟩ => hne ?_
      have hop : op' = op := Option.some.inj (((check_eq_ok_iff f op').1 h').1.symm.trans h)
      rw [h', hop]
  rw [hexcl, ne_eq, hok]
  tauto

/-- R81 on the fields: the reserved codes, and what each named code asks of the other fields. -/
theorem check_eq_error_iff (f : Fields) :
    (∃ e, f.check = .error e) ↔
      (f.op.toNat = 0 ∨ 6 ≤ f.op.toNat)
      ∨ f.rsv ≠ 0
      ∨ ((f.op.toNat = 3 ∨ f.op.toNat = 5) ∧ (f.index ≠ 0 ∨ f.data ≠ 0))
      ∨ (f.op.toNat = 4 ∧ f.index ≠ 0) := by
  cases h : Opcode.ofBits f.op with
  | none =>
    have hres := Opcode.ofBits_eq_none_iff.1 h
    exact iff_of_true ⟨.reservedOp, by simp [Fields.check, h]⟩ (.inl hres)
  | some op =>
    rw [check_eq_error_iff_of_ofBits h, Opcode.ofBits_eq_some_iff.1 h]
    cases op <;> simp [Opcode.bits, Opcode.takesIndex, Opcode.takesData]

theorem decode_eq_ok_iff {w : CmdWord} {i : Instr} :
    decode w = .ok i ↔ ∃ op, (fieldsOf w).check = .ok op ∧ instrOf op (fieldsOf w) = i := by
  unfold decode
  cases (fieldsOf w).check <;> simp

theorem decode_eq_error_iff {w : CmdWord} {e : IllegalWord} : decode w = .error e ↔ (fieldsOf w).check = .error e := by
  unfold decode
  cases (fieldsOf w).check <;> simp

theorem opcodeBits_instrOf (op : Opcode) (f : Fields) : opcodeBits (instrOf op f) = op.bits := by
  cases op <;> rfl

/-- Instructions of different operations differ, by their codes. -/
theorem instrOf_opcode_inj {op op' : Opcode} {f f' : Fields} (h : instrOf op f = instrOf op' f') : op = op' := by
  have hbits : op.bits = op'.bits := by rw [← opcodeBits_instrOf op f, h, opcodeBits_instrOf]
  exact Option.some.inj ((Opcode.ofBits_eq_some_iff.2 rfl).symm.trans (Opcode.ofBits_eq_some_iff.2 hbits))

theorem decode_eq_instrOf_iff {w : CmdWord} {op : Opcode} :
    decode w = .ok (instrOf op (fieldsOf w)) ↔ (fieldsOf w).check = .ok op := by
  rw [decode_eq_ok_iff]
  constructor
  · rintro ⟨op', hc, hi⟩
    rwa [← instrOf_opcode_inj hi]
  · exact fun hc => ⟨op, hc, rfl⟩

/-! ## Masks of whole fields -/

/-- A mask of whole fields acts on each field alone. -/
theorem wordOfFields_and (f m : Fields) :
    wordOfFields f &&& wordOfFields m
      = wordOfFields
          { op := f.op &&& m.op, rsv := f.rsv &&& m.rsv, index := f.index &&& m.index, data := f.data &&& m.data } := by
  show (f.op ++ f.rsv ++ f.index ++ f.data : BitVec (4 + 4 + 16 + 24)) &&& (m.op ++ m.rsv ++ m.index ++ m.data) = _
  rw [BitVec.and_append, BitVec.and_append, BitVec.and_append]
  rfl

theorem wordOfFields_inj {f f' : Fields} : wordOfFields f = wordOfFields f' ↔ f = f' :=
  (Function.LeftInverse.injective fieldsOf_wordOfFields).eq_iff

/-- The mask of a row of R72: every bit of the fields that the operation does not take as operands. -/
def Opcode.mask (op : Opcode) : Fields :=
  { op := BitVec.allOnes 4
    rsv := BitVec.allOnes 4
    index := if op.takesIndex then 0 else BitVec.allOnes 16
    data := if op.takesData then 0 else BitVec.allOnes 24 }

/-- The match of a row of R72. -/
def Opcode.matchFields (op : Opcode) : Fields := { op := op.bits, rsv := 0, index := 0, data := 0 }

theorem and_ite_allOnes_eq_zero_iff {n : Nat} (x : BitVec n) (taken : Bool) :
    x &&& (if taken then 0 else BitVec.allOnes n) = 0 ↔ (taken = false → x = 0) := by
  cases taken <;> simp

/-- A word selects a row exactly when it decodes to the row's operation with the fields of the word. -/
theorem and_mask_eq_match_iff (w : CmdWord) (op : Opcode) :
    w &&& wordOfFields op.mask = wordOfFields op.matchFields ↔ decode w = .ok (instrOf op (fieldsOf w)) := by
  rw [decode_eq_instrOf_iff, check_eq_ok_iff, Opcode.ofBits_eq_some_iff]
  conv_lhs => rw [← wordOfFields_fieldsOf w]
  rw [wordOfFields_and, wordOfFields_inj]
  simp only [Opcode.mask, Opcode.matchFields, Fields.mk.injEq, BitVec.and_allOnes, and_ite_allOnes_eq_zero_iff]

/-! ## The channels of a payload -/

theorem redOf_data (w : CmdWord) : redOf (fieldsOf w).data = w.extractLsb' 16 8 :=
  BitVec.extractLsb'_extractLsb'_of_le (by decide)

theorem greenOf_data (w : CmdWord) : greenOf (fieldsOf w).data = w.extractLsb' 8 8 :=
  BitVec.extractLsb'_extractLsb'_of_le (by decide)

theorem blueOf_data (w : CmdWord) : blueOf (fieldsOf w).data = w.extractLsb' 0 8 :=
  BitVec.extractLsb'_extractLsb'_of_le (by decide)

end Sys2Proof

namespace Sys2Proof.Machine

/-- R93: SET_COLOR_PACKED is SET_COLOR of the three fields of its colour. -/
theorem exec_setColorPacked_eq (index : LedIndex) (p : Packed) :
    exec (.setColorPacked index p) = exec (.setColor index (redOf p) (greenOf p) (blueOf p)) := rfl

theorem exec_setColorPacked_packColour (index : LedIndex) (r g b : Byte) :
    exec (.setColorPacked index (packColour r g b)) = exec (.setColor index r g b) := by
  rw [exec_setColorPacked_eq, redOf_packColour, greenOf_packColour, blueOf_packColour]

theorem acceptWord_of_decode_error {w : CmdWord} {e : IllegalWord} (s : State) (h : decode w = .error e) :
    acceptWord w s = .next (s.raise .illegalCommand) := by
  rw [acceptWord, h]

/-- Settles O3: the five rows are the literals of the masks and matches of whole fields. -/
theorem maskAndMatchSelectTheOperation : Obligations.MaskAndMatchSelectTheOperation := by
  refine ⟨fun w => ⟨?_, ?_, ?_, ?_, ?_⟩, fun index r g b s => ?_⟩
  · have h := and_mask_eq_match_iff w .setColor
    rwa [instrOf, redOf_data, greenOf_data, blueOf_data] at h
  · exact and_mask_eq_match_iff w .setColorPacked
  · exact and_mask_eq_match_iff w .clear
  · have h := and_mask_eq_match_iff w .pack
    rwa [instrOf, redOf_data, greenOf_data, blueOf_data] at h
  · exact and_mask_eq_match_iff w .showFrame
  · exact (congrFun (exec_setColorPacked_packColour index r g b) s).symm

/-- Settles O4: the decoder's error is the check's, and the port answers it by the fault alone. -/
theorem illegalWordsAndTheirEffect : Obligations.IllegalWordsAndTheirEffect := by
  refine ⟨fun w => ?_, fun w e s h => acceptWord_of_decode_error s h⟩
  simp only [decode_eq_error_iff]
  exact check_eq_error_iff (fieldsOf w)

end Sys2Proof.Machine
end

section
/-! CLEAR as a row of SET_COLOR (30_encoding.md R85). -/

namespace Sys2Proof.Machine

theorem Memory.storeAll_append (p : Params) (m cs ds : List Host.Cell) :
    Memory.storeAll p m (cs ++ ds) = Memory.storeAll p (Memory.storeAll p m cs) ds :=
  List.foldl_append

/-- The state after SET_COLOR of black on the first `k` LEDs, in order. -/
def State.blackened (s : State) (k : Nat) : State :=
  { s with
    mem := Memory.storeAll s.cfg s.mem ((List.range k).flatMap fun i => sliceCells s.cfg i 0 0 0)
    responses := s.responses ++ List.replicate k 0x0000000#28 }

/-- SET_COLOR of black on the next LED. The index fits its field, since `N` does (00_scope.md R7). -/
theorem exec_setColor_blackened {s : State} {k : Nat} (hk : k < s.cfg.n) (hn : s.cfg.n ≤ 65535) :
    exec (.setColor (BitVec.ofNat 16 k) 0 0 0) (s.blackened k) = .next (s.blackened (k + 1)) := by
  have hidx : (BitVec.ofNat 16 k).toNat = k := by
    rw [BitVec.toNat_ofNat, Nat.mod_eq_of_lt (by omega)]
  show setColourAt (BitVec.ofNat 16 k) 0 0 0 (s.blackened k) = _
  rw [setColourAt_of_lt (by rw [hidx]; exact hk), hidx]
  simp only [State.blackened, State.withMem, State.respond, List.range_succ, List.flatMap_append, List.flatMap_singleton,
    Memory.storeAll_append, List.replicate_succ', List.append_assoc]
  rfl

theorem foldl_setColor_black {s : State} {k : Nat} (hk : k ≤ s.cfg.n) (hn : s.cfg.n ≤ 65535) :
    (List.range k).foldl (fun o i => andThen o (exec (.setColor (BitVec.ofNat 16 i) 0 0 0))) (.next s)
      = .next (s.blackened k) := by
  induction k with
  | zero => simp [State.blackened, Memory.storeAll]
  | succ k ih =>
    rw [List.range_succ, List.foldl_append, ih (Nat.le_of_succ_le hk)]
    exact exec_setColor_blackened hk hn

/-- CLEAR makes the same writes in the same order and answers once. -/
theorem exec_clear_blackened (s : State) :
    exec .clear s = .next { s.blackened s.cfg.n with responses := s.responses ++ [0x0000000#28] } :=
  execClear_eq s

theorem paramsOK_n_le {p : Params} (h : paramsOK p = true) : p.n ≤ 65535 := by
  simp only [paramsOK, Bool.and_eq_true, decide_eq_true_eq] at h
  obtain ⟨⟨⟨⟨hn, -⟩, -⟩, -⟩, -⟩ := h
  exact hn

/-- Settles O19: the delegation of R93, and the induction over the LEDs. -/
theorem operationsDefinedByExpansion : Obligations.OperationsDefinedByExpansion := by
  refine ⟨fun s index p => congrFun (exec_setColorPacked_eq index p) s, fun s hp => ?_⟩
  exact ⟨_, exec_clear_blackened s, foldl_setColor_black le_rfl (paramsOK_n_le hp)⟩

end Sys2Proof.Machine
end

section
/-! Legality of a word whose operation code names an operation (30_encoding.md R81), as the encoder operations state it. -/

namespace Sys2Proof.Machine

/-- A word with an operation's code but with a field that R81 forbids it is answered by the fault alone. -/
theorem acceptWord_of_illegal_fields {w : CmdWord} {op : Opcode} (s : State) (hop : (fieldsOf w).op = op.bits)
    (h : (fieldsOf w).rsv ≠ 0 ∨ (op.takesIndex = false ∧ (fieldsOf w).index ≠ 0)
      ∨ (op.takesData = false ∧ (fieldsOf w).data ≠ 0)) :
    acceptWord w s = .next (s.raise .illegalCommand) := by
  obtain ⟨e, he⟩ := (check_eq_error_iff_of_ofBits (Opcode.ofBits_eq_some_iff.2 hop)).2 h
  exact acceptWord_of_decode_error s (decode_eq_error_iff.2 he)

end Sys2Proof.Machine
end

section
/-! SET_COLOR and SET_COLOR_PACKED (40_encoder.md R91 to R93): the 24 writes of a slice and their frame. -/

namespace Sys2Proof.Machine

/-- The 24 writes of a slice name each slot once, so that its byte is the timing class of its bit. -/
theorem readByte_storeAll_sliceCells {s : State} {i c k : Nat} (r g b : Byte) (hc : c < 3) (hk : k < 8) :
    (s.withMem (Memory.storeAll s.cfg s.mem (sliceCells s.cfg i r g b))).readByte (slot i c k)
      = timingClass s.cfg ((channelAt r g b c).getLsbD k) := by
  refine State.readByte_storeAll_of_mem s ⟨_, mem_sliceCells.2 ⟨c, k, hc, hk, rfl⟩, rfl⟩ fun x hx haddr => ?_
  obtain ⟨c', k', hc', hk', rfl⟩ := mem_sliceCells.1 hx
  obtain ⟨-, rfl, rfl⟩ := slot_inj hc' hk' hc hk haddr
  rfl

/-- A slice that lies in the buffer is written, and nothing else changes but the answer. -/
theorem sliceWritten_storeAll {s : State} {i : Nat} (r g b : Byte) (hi : i * 24 + 24 ≤ bufLen s.cfg) :
    SliceWritten s ((s.withMem (Memory.storeAll s.cfg s.mem (sliceCells s.cfg i r g b))).respond statusOk 0) i r g b := by
  refine ⟨rfl, fun c k hc hk => readByte_storeAll_sliceCells r g b hc hk, fun a ha => ?_, fun hwf => ?_⟩
  · -- every write lies in the slice
    refine State.readByte_storeAll_of_not_mem s fun x hx haddr => ha ?_
    exact haddr ▸ sliceCells_addr hx
  · exact Memory.storeAll_wf _ hwf fun x hx => Nat.lt_of_lt_of_le (sliceCells_addr hx).2 hi

theorem slice_le_bufLen {p : Params} {i : Nat} (hi : i < p.n) : i * 24 + 24 ≤ bufLen p := by
  unfold bufLen ledEnd
  omega

theorem setColourAt_sliceWritten {index : LedIndex} {s : State} (r g b : Byte) (h : index.toNat < s.cfg.n) :
    ∃ t, setColourAt index r g b s = .next t ∧ SliceWritten s t index.toNat r g b :=
  ⟨_, setColourAt_of_lt h, sliceWritten_storeAll r g b (slice_le_bufLen h)⟩

/-- Settles O13: the shared effect of both colour operations, below `N` and from `N` on, and the reserved field of the word. -/
theorem setColorWritesItsSlice : Obligations.SetColorWritesItsSlice :=
  ⟨fun _ _ r g b h => setColourAt_sliceWritten r g b h,
    fun _ _ _ _ _ hp h => setColourAt_of_reject h hp,
    fun s _ hop hrsv => acceptWord_of_illegal_fields (op := .setColor) s hop (.inl hrsv)⟩

/-- Settles O14: SET_COLOR's effect at the three fields of the packed colour, which `pack` and then the fields give back. -/
theorem setColorPackedWritesItsSlice : Obligations.SetColorPackedWritesItsSlice :=
  ⟨fun _ _ _ h => setColourAt_sliceWritten _ _ _ h,
    fun _ _ _ hp h => setColourAt_of_reject h hp,
    fun s _ hop hrsv => acceptWord_of_illegal_fields (op := .setColorPacked) s hop (.inl hrsv),
    fun s index r g b => congrFun (exec_setColorPacked_packColour index r g b) s⟩

end Sys2Proof.Machine
end

section
/-! Decoding a slice of timing-class bytes gives its colour (30_encoding.md R79). -/

namespace Sys2Proof.Machine

theorem paramsOK_low_ne_high {p : Params} (h : paramsOK p = true) : p.low ≠ p.high := by
  simp only [paramsOK, Bool.and_eq_true, decide_eq_true_eq] at h
  obtain ⟨⟨-, hlt⟩, -⟩ := h
  exact fun he => Nat.lt_irrefl _ (he ▸ hlt)

theorem decodeClass_timingClass {p : Params} (h : p.low ≠ p.high) (bit : Bool) :
    decodeClass p (timingClass p bit) = some bit := by
  cases bit <;> simp [decodeClass, timingClass, h]

/-- The bits of a byte above bit `k`, with bit `k` pushed, are the bits from `k` on. -/
theorem pushBit_ushiftRight (v : Byte) (k : Nat) :
    pushBit (some (v >>> (k + 1))) (some (v.getLsbD k)) = some (v >>> k) := by
  refine congrArg some (BitVec.eq_of_getLsbD_eq fun j hj => ?_)
  cases j with
  | zero => cases hbit : v.getLsbD k <;> simp [hbit]
  | succ j =>
    have hidx : k + 1 + j = k + (j + 1) := by omega
    cases v.getLsbD k <;> simp [hj, hidx]

/-- Eight pushes, from bit 7 down to bit 0, rebuild the byte. -/
theorem decodeChannel_timingClass {p : Params} (h : p.low ≠ p.high) (v : Byte) :
    decodeChannel p ([7, 6, 5, 4, 3, 2, 1, 0].map fun k => timingClass p (v.getLsbD k)) = some v := by
  have hstart : some 0#8 = some (v >>> (7 + 1)) := congrArg some (BitVec.ushiftRight_eq_zero (by decide)).symm
  simp only [decodeChannel, List.map_cons, List.map_nil, List.foldl_cons, List.foldl_nil, decodeClass_timingClass h]
  rw [hstart]
  iterate 8 rw [pushBit_ushiftRight]
  rfl

/-- Eight bytes in a row of a slice are a channel, most significant bit first. -/
theorem State.slice_channel (s : State) (i : Nat) {c : Nat} (hc : c < 3) :
    ((s.slice i).drop (c * 8)).take 8 = [7, 6, 5, 4, 3, 2, 1, 0].map fun k => s.readByte (slot i c k) := by
  obtain rfl | rfl | rfl : c = 0 ∨ c = 1 ∨ c = 2 := by omega
  all_goals rfl

/-- A slice whose bytes are the timing classes of a colour's bits holds that colour. -/
theorem State.ledColour_of_slots {s : State} {i : Nat} {r g b : Byte} (hp : paramsOK s.cfg = true)
    (h : ∀ c k, c < 3 → k < 8 → s.readByte (slot i c k) = timingClass s.cfg ((channelAt r g b c).getLsbD k)) :
    s.ledColour i = some (r, g, b) := by
  have hch : ∀ c, c < 3 → decodeChannel s.cfg (((s.slice i).drop (c * 8)).take 8) = some (channelAt r g b c) := by
    intro c hc
    rw [State.slice_channel s i hc, ← decodeChannel_timingClass (paramsOK_low_ne_high hp) (channelAt r g b c)]
    refine congrArg _ (List.map_congr_left fun k hk => h c k hc ?_)
    simp only [List.mem_cons, List.not_mem_nil, or_false] at hk
    omega
  have hg := hch 0 (by decide)
  have hr := hch 1 (by decide)
  have hb := hch 2 (by decide)
  simp only [Nat.zero_mul, List.drop_zero, Nat.one_mul, Nat.reduceMul] at hg hr hb
  simp only [State.ledColour, decodeSlice, hr, hg, hb]
  rfl

end Sys2Proof.Machine
end

section
/-! CLEAR (40_encoder.md R94): every LED byte is a slot, and every slot is made `LOW`. -/

namespace Sys2Proof.Machine

/-- Every address of the LED region is the slot of a bit (20_memory.md R52). -/
theorem exists_slot_eq {n a : Nat} (h : a < n * 24) : ∃ i c k, i < n ∧ c < 3 ∧ k < 8 ∧ slot i c k = a :=
  ⟨a / 24, a % 24 / 8, 7 - a % 8, by omega, by omega, by omega, by unfold slot; omega⟩

theorem readByte_storeAll_clearCells_of_lt {s : State} {a : Nat} (h : a < s.cfg.n * 24) :
    (s.withMem (Memory.storeAll s.cfg s.mem (clearCells s.cfg))).readByte a = s.cfg.low := by
  obtain ⟨i, c, k, hi, hc, hk, rfl⟩ := exists_slot_eq h
  refine State.readByte_storeAll_of_mem s ⟨_, mem_clearCells.2 ⟨i, c, k, hi, hc, hk, rfl⟩, rfl⟩ fun x hx _ => ?_
  obtain ⟨i', c', k', -, -, -, rfl⟩ := mem_clearCells.1 hx
  rfl

theorem readByte_storeAll_clearCells_of_le {s : State} {a : Nat} (h : s.cfg.n * 24 ≤ a) :
    (s.withMem (Memory.storeAll s.cfg s.mem (clearCells s.cfg))).readByte a = s.readByte a :=
  State.readByte_storeAll_of_not_mem s fun _ hx => Nat.ne_of_lt (Nat.lt_of_lt_of_le (clearCells_lt hx) h)

/-- Settles O18: CLEAR's cells cover the LED region and end where the gap begins; `LOW` is the timing class of each bit of
black. -/
theorem clearMakesEveryLedBlack : Obligations.ClearMakesEveryLedBlack := by
  refine ⟨fun s => ⟨_, execClear_eq s, rfl, fun a ha => readByte_storeAll_clearCells_of_lt ha,
    fun a ha => readByte_storeAll_clearCells_of_le ha, fun hn => ?_, fun hp i hi => ?_, fun hwf => ?_⟩,
    fun w s hop hother => acceptWord_of_illegal_fields (op := .clear) s hop ?_⟩
  · -- no LED, no write
    simp [clearCells, hn, Memory.storeAll]
  · -- every bit of black is 0
    refine State.ledColour_of_slots hp fun c k hc _ => ?_
    exact (readByte_storeAll_clearCells_of_lt (slot_lt hi hc)).trans (by simp [channelAt, timingClass])
  · exact Memory.storeAll_wf _ hwf fun x hx => Nat.lt_of_lt_of_le (clearCells_lt hx) (Nat.le_add_right _ _)
  · exact hother.imp_right fun h => h.imp (⟨rfl, ·⟩) (⟨rfl, ·⟩)

end Sys2Proof.Machine
end

section
/-! PACK (40_encoder.md R95): the result is the payload of the word. -/

namespace Sys2Proof

/-- A packed colour is the join of its three fields (30_encoding.md R76). -/
theorem packColour_fields (p : Packed) : packColour (redOf p) (greenOf p) (blueOf p) = p := by
  unfold packColour redOf greenOf blueOf
  iterate 2 rw [BitVec.extractLsb'_append_extractLsb'_eq_extractLsb' (by rfl)]
  exact BitVec.extractLsb'_eq_self

/-- Only the PACK row gives a PACK, with the three fields of the payload. -/
theorem packColour_of_decode_pack {w : CmdWord} {r g b : Byte} (h : decode w = .ok (.pack r g b)) :
    packColour r g b = (fieldsOf w).data := by
  obtain ⟨op, -, hi⟩ := decode_eq_ok_iff.1 h
  cases op with
  | pack =>
    obtain ⟨rfl, rfl, rfl⟩ := Instr.pack.inj hi
    exact packColour_fields _
  | setColor | setColorPacked | clear | showFrame => cases hi

end Sys2Proof

namespace Sys2Proof.Machine

/-- Settles O21: the answer is the operation's definition, its result the payload, and PACK takes no index. -/
theorem packAnswersThePackedColour : Obligations.PackAnswersThePackedColour :=
  ⟨fun _ _ _ _ => rfl, fun _ _ _ _ => packColour_of_decode_pack,
    fun _ s hop hother =>
      acceptWord_of_illegal_fields (op := .pack) s hop (hother.imp_right fun h => .inl ⟨rfl, h⟩)⟩

end Sys2Proof.Machine
end

section
/-! The compare rule (42_waveform.md R132) and the cells of legal parameters (R133, R134). -/

namespace Sys2Proof.Machine

/-- R132: the counter is below the compare value for the first `min v PERIOD` ticks and for no later one. -/
theorem map_wave_range (v : Byte) (period : Nat) :
    (List.range period).map (wave v)
      = List.replicate (min v.toNat period) true ++ List.replicate (period - min v.toNat period) false := by
  have hfirst : (List.range (min v.toNat period)).map (wave v) = List.replicate (min v.toNat period) true := by
    refine List.eq_replicate_iff.2 ⟨by simp, fun b hb => ?_⟩
    obtain ⟨c, hc, rfl⟩ := List.mem_map.1 hb
    exact decide_eq_true (Nat.lt_of_lt_of_le (List.mem_range.1 hc) (Nat.min_le_left _ _))
  have hrest : (List.range (period - min v.toNat period)).map (fun c => wave v (min v.toNat period + c))
      = List.replicate (period - min v.toNat period) false := by
    refine List.eq_replicate_iff.2 ⟨by simp, fun b hb => ?_⟩
    obtain ⟨c, hc, rfl⟩ := List.mem_map.1 hb
    have hin : c < period - min v.toNat period := List.mem_range.1 hc
    exact decide_eq_false (by omega)
  calc (List.range period).map (wave v)
      = (List.range (min v.toNat period + (period - min v.toNat period))).map (wave v) := by
        rw [Nat.add_sub_of_le (Nat.min_le_right _ _)]
    _ = (List.range (min v.toNat period)).map (wave v)
          ++ (List.range (period - min v.toNat period)).map (fun c => wave v (min v.toNat period + c)) := by
        rw [List.range_add, List.map_append, List.map_map, Function.comp_def]
    _ = List.replicate (min v.toNat period) true ++ List.replicate (period - min v.toNat period) false := by
        rw [hfirst, hrest]

/-- A compare value that fits in the cell is the length of its pulse. -/
theorem map_wave_range_of_le {v : Byte} {period : Nat} (h : v.toNat ≤ period) :
    (List.range period).map (wave v)
      = List.replicate v.toNat true ++ List.replicate (period - v.toNat) false := by
  rw [map_wave_range, Nat.min_eq_left h]

/-- The order of the timing classes (00_scope.md R11). -/
theorem paramsOK_pulses {p : Params} (h : paramsOK p = true) :
    0 < p.low.toNat ∧ p.low.toNat < p.high.toNat ∧ p.high.toNat < p.period := by
  simp only [paramsOK, Bool.and_eq_true, decide_eq_true_eq] at h
  obtain ⟨⟨⟨-, hlow⟩, hlt⟩, hper⟩ := h
  exact ⟨hlow, hlt, hper⟩

/-- Settles O12: `0 < LOW < HIGH < PERIOD`, so each compare value fits in the cell and is the length of its pulse. -/
theorem cellsOnTheLine : Obligations.CellsOnTheLine := by
  refine ⟨map_wave_range, fun p hp => ?_⟩
  obtain ⟨hlow, hlt, hper⟩ := paramsOK_pulses hp
  exact ⟨map_wave_range_of_le hper.le, map_wave_range_of_le (hlt.trans hper).le,
    map_wave_range_of_le (v := 0x00#8) (Nat.zero_le _), hlow, hlt, Nat.sub_pos_of_lt hper, by omega⟩

end Sys2Proof.Machine
end

section
/-! The tick, case by case (42_waveform.md R131), and what the invariants say while the timer runs. -/

namespace Sys2Proof.Machine

theorem tick_of_disabled {s : State} (h : s.timEn = false) : tick s = .next s := by
  simp [tick, h]

/-- Inside a cell the channel does not act. -/
theorem tick_of_cnt_ne_zero {s : State} (h : s.timEn = true) (hc : s.cnt ≠ 0) : tick s = .next (driveTick s) := by
  simp [tick, h, hc]

/-- A tick at the counter's zero opens a cell before it drives the pin. -/
theorem tick_of_openCell {s t : State} (h : s.timEn = true) (hc : s.cnt = 0) (ho : openCell s = .next t) :
    tick s = .next (driveTick t) := by
  simp [tick, h, hc, ho]

theorem openCell_of_disabled {s : State} (h : s.dmaEn = false) : openCell s = .next s := by
  simp [openCell, h]

/-- With no byte left the completion flag rises (41_transmit.md R112). -/
theorem openCell_of_dmaCnt_zero {s : State} (h : s.dmaEn = true) (hn : s.dmaCnt = 0) :
    openCell s = .next s.raiseDone := by
  simp [openCell, h, hn]

/-- With a byte left, inside the buffer, the channel makes a beat (41_transmit.md R110). -/
theorem openCell_of_lt_bufLen {s : State} (h : s.dmaEn = true) (hn : 0 < s.dmaCnt) (hp : s.dmaPtr < bufLen s.cfg) :
    openCell s = .next (s.copyByte (s.readByte s.dmaPtr)) := by
  simp [openCell, beat, h, hn, State.memRead_eq_some.2 ⟨hp, rfl⟩]

/-- The pin, the record and the counter after a tick at the counter's zero: `wave v 0` says whether the pulse is not empty. -/
theorem driveTick_of_cnt_zero {s : State} (hc : s.cnt = 0) :
    driveTick s = { s with
      dout := decide (0 < s.ccr.toNat)
      line := s.line ++ [(s.showNo, decide (0 < s.ccr.toNat))]
      cnt := 1 % s.cfg.period } := by
  simp only [driveTick, wave, hc]

/-- The timer runs in `Transmitting` and in `Draining` only (41_transmit.md R108, R114), where the line is in progress. -/
theorem lineProgress_of_timEn {s : State} (hb : BlockOK s) (hl : LineOK s) (h : s.timEn = true) :
    LineProgress s (s.lineOf s.showNo).length := by
  obtain ⟨-, -, -, -, -, -, hdriver⟩ := hb
  obtain ⟨-, -, hline⟩ := hl
  cases hx : s.txState with
  | idle =>
    simp only [DriverOK, hx] at hdriver
    obtain ⟨hoff, -⟩ := hdriver
    exact absurd (hoff.symm.trans h) Bool.false_ne_true
  | arming w =>
    simp only [DriverOK, hx] at hdriver
    obtain ⟨hoff, -⟩ := hdriver
    exact absurd (hoff.symm.trans h) Bool.false_ne_true
  | transmitting =>
    simp only [hx] at hline
    obtain ⟨-, hprogress, -⟩ := hline
    exact hprogress
  | draining w =>
    simp only [hx] at hline
    obtain ⟨-, hprogress, -⟩ := hline
    exact hprogress

/-- Settles O37: the counter is part of the line's progress; each case of the tick is its opening of the cell, then the
drive. -/
theorem tickOfTheStreamer : Obligations.TickOfTheStreamer := by
  refine ⟨fun s hb hl ht => ?_, fun s => ⟨tick_of_disabled, tick_of_cnt_ne_zero, fun ht hc hd hn hp => ?_,
    fun ht hc hd hn => ?_, fun ht hc hd => ?_⟩⟩
  · -- tick number `t`
    obtain ⟨-, hcnt, -⟩ := lineProgress_of_timEn hb hl ht
    exact hcnt
  · -- a beat
    rw [tick_of_openCell ht hc (openCell_of_lt_bufLen hd hn hp), driveTick_of_cnt_zero (s := s.copyByte _) hc]
    rfl
  · -- the completion flag
    rw [tick_of_openCell ht hc (openCell_of_dmaCnt_zero hd hn), driveTick_of_cnt_zero (s := s.raiseDone) hc]
    rfl
  · -- the channel is disabled
    rw [tick_of_openCell ht hc (openCell_of_disabled hd), driveTick_of_cnt_zero hc]

end Sys2Proof.Machine
end

section
/-! Fault entry (60_exceptions.md R161, R162, R166): the rejected index, and the step that accepts a word. -/

namespace Sys2Proof.Machine

/-- Settles O16: both operations have the effect of `setColourAt`, which raises `RangeError`; the state below is `raise`
written out. -/
theorem indexOutOfRangeIsRejected : Obligations.IndexOutOfRangeIsRejected :=
  fun _ _ _ _ _ _ hpol hidx => ⟨setColourAt_of_reject hidx hpol, setColourAt_of_reject hidx hpol⟩

theorem acceptWord_of_decode_ok {w : CmdWord} {i : Instr} (s : State) (h : decode w = .ok i) :
    acceptWord w s = exec i s := by
  rw [acceptWord, h]

/-- R73: on the block's move an idle block accepts the word that waits at the port. -/
theorem step_eq_acceptWord {s : State} {w : CmdWord} (hp : paramsOK s.cfg = true) (hm : s.nextMove = .block)
    (hi : s.txState = .idle) (hw : s.held = some w) : step s = acceptWord w s.advance.takeHeld := by
  rw [step_eq_runMove hp, hm, runMove, blockMove, State.advance_txState, hi, State.advance_held, hw]

/-- Settles O25: legality first, then the index by O16. The choice of the move changes neither `ERR` nor the responses, so
the fault is raised on those of `s`. -/
theorem faultEntry : Obligations.FaultEntry := by
  refine ⟨fun s w e hp hm hi hw hd => ?_, fun s w index r g b p hp hpol hm hi hw hd hidx => ?_⟩
  · -- an illegal word, whatever its index
    rw [step_eq_acceptWord hp hm hi hw, ← State.advance_err s, ← State.advance_responses s]
    exact acceptWord_of_decode_error _ hd
  · -- a legal word whose index is out of range
    rw [step_eq_acceptWord hp hm hi hw, ← State.advance_err s, ← State.advance_responses s]
    obtain ⟨hset, hpacked⟩ :=
      indexOutOfRangeIsRejected s.advance.takeHeld index r g b p (by simpa using hpol) (by simpa using hidx)
    obtain hd | hd := hd
    · exact (acceptWord_of_decode_ok _ hd).trans hset
    · exact (acceptWord_of_decode_ok _ hd).trans hpacked

end Sys2Proof.Machine
end

section
/-! The encoder is the inverse of the decoder (30_encoding.md section 2, R72, R81). -/

namespace Sys2Proof

/-- The operation of an instruction. -/
def Instr.opcode : Instr → Opcode
  | .setColor _ _ _ _ => .setColor
  | .setColorPacked _ _ => .setColorPacked
  | .clear => .clear
  | .pack _ _ _ => .pack
  | .showFrame => .showFrame

/-- The fields of an instruction's word are legal and name its operation. -/
theorem check_fieldsOfInstr (i : Instr) : (fieldsOfInstr i).check = .ok i.opcode := by
  cases i <;> rfl

/-- The operands of an instruction are carried by the fields of its word. -/
theorem instrOf_fieldsOfInstr (i : Instr) : instrOf i.opcode (fieldsOfInstr i) = i := by
  cases i <;> simp [Instr.opcode, instrOf, fieldsOfInstr]

theorem Instr.wellFormed_eq_true (i : Instr) : i.wellFormed = true := by
  simp [Instr.wellFormed, Fields.wellFormed, check_fieldsOfInstr]

theorem decode_encode (i : Instr) : decode (encode i) = .ok i := by
  rw [decode_eq_ok_iff, encode, fieldsOf_wordOfFields]
  exact ⟨i.opcode, check_fieldsOfInstr i, instrOf_fieldsOfInstr i⟩

/-- Settles O1: the fields of an instruction's word are legal, survive the word, and carry the operands. -/
theorem decodeOfEncodeIsTheInstruction : Obligations.DecodeOfEncodeIsTheInstruction :=
  fun i => ⟨i.wellFormed_eq_true, decode_encode i⟩

/-- Legal fields are those of their own instruction: a field that it does not carry is 0. -/
theorem fieldsOfInstr_instrOf {f : Fields} {op : Opcode} (h : f.check = .ok op) : fieldsOfInstr (instrOf op f) = f := by
  obtain ⟨hop, hrsv, hindex, hdata⟩ := (check_eq_ok_iff f op).1 h
  have hbits := Opcode.ofBits_eq_some_iff.1 hop
  obtain ⟨fop, rsv, index, data⟩ := f
  cases op with
  | setColor | setColorPacked =>
    -- every operand is carried
    simp_all [instrOf, fieldsOfInstr, opcodeBits, Opcode.bits, packColour_fields]
  | clear | showFrame =>
    -- no operand, so both fields are 0
    simp_all [instrOf, fieldsOfInstr, opcodeBits, Opcode.bits, Opcode.takesIndex, Opcode.takesData]
  | pack =>
    -- no index
    simp_all [instrOf, fieldsOfInstr, opcodeBits, Opcode.bits, Opcode.takesIndex, packColour_fields]

/-- Settles O2: a word is its fields, and legal fields are those of the decoded instruction. -/
theorem encodeOfDecodeIsTheWord : Obligations.EncodeOfDecodeIsTheWord := by
  intro w i h
  obtain ⟨op, hcheck, rfl⟩ := decode_eq_ok_iff.1 h
  rw [encode, fieldsOfInstr_instrOf hcheck, wordOfFields_fieldsOf]

/-- Settles O5: the five words are literals, which the decoder evaluates. -/
theorem wordsOfTheSpecDecode : Obligations.WordsOfTheSpecDecode := by
  unfold Obligations.WordsOfTheSpecDecode
  decide

end Sys2Proof
end

section
/-! Unpacking by shift and mask (30_encoding.md R76). -/

namespace Sys2Proof

/-- Eight bits of a packed colour from bit `k` on, by shift and mask. -/
theorem extractLsb'_eq_shift_mask (p : Packed) (k : Nat) :
    p.extractLsb' k 8 = ((p >>> k) &&& 0xFF#24).setWidth 8 := by
  have hmask : (0xFF#24).setWidth 8 = BitVec.allOnes 8 := rfl
  rw [BitVec.setWidth_and, hmask, BitVec.and_allOnes]
  rfl

/-- Settles O8: each channel is its field by shift and mask; the fields of a joined colour are its parts, and a colour is the
join of its fields. -/
theorem unpackIsTheInverseOfPack : Obligations.UnpackIsTheInverseOfPack := by
  refine ⟨fun p => ⟨?_, packColour_fields p⟩, fun r g b => ?_⟩
  · simp only [unpackColour, redOf, greenOf, blueOf, extractLsb'_eq_shift_mask, BitVec.ushiftRight_zero]
  · simp only [unpackColour, redOf_packColour, greenOf_packColour, blueOf_packColour]

end Sys2Proof
end

section
/-! The slots of the LED region (20_memory.md R52) and the timing classes (30_encoding.md R78, R79). -/

namespace Sys2Proof.Machine

/-- Settles O9: a slot determines its LED, channel and bit, and each LED byte is a slot. -/
theorem slotIsInjectiveOntoTheLedRegion : Obligations.SlotIsInjectiveOntoTheLedRegion := by
  refine ⟨fun _ _ _ _ _ _ hc hk hc' hk' h => slot_inj hc hk hc' hk' h, fun n a => ⟨exists_slot_eq, ?_⟩,
    fun _ _ _ => rfl, rfl⟩
  rintro ⟨i, c, k, hi, hc, -, rfl⟩
  exact slot_lt hi hc

/-- Both timing classes have a pulse, so neither is the zero class (00_scope.md R11, R12). -/
theorem timingClass_ne_zero {p : Params} (h : paramsOK p = true) (bit : Bool) : timingClass p bit ≠ 0x00#8 := by
  obtain ⟨hlow, hlt, -⟩ := paramsOK_pulses h
  intro he
  have hzero : (timingClass p bit).toNat = 0 := by rw [he]; rfl
  cases bit <;> simp only [timingClass, if_true, if_false, Bool.false_eq_true] at hzero <;> omega

/-- Settles O10: `tc` by cases of the bit; every bit of black is 0. -/
theorem timingClassOfABit : Obligations.TimingClassOfABit :=
  fun _ hp => ⟨rfl, rfl, timingClass_ne_zero hp, fun _ => rfl⟩

/-- A byte with a value is the timing class of that value. -/
theorem eq_timingClass_of_decodeClass {p : Params} {v : Byte} {bit : Bool} (h : decodeClass p v = some bit) :
    v = timingClass p bit := by
  unfold decodeClass at h
  split at h
  · -- the byte is `HIGH`
    next hv => rw [hv, ← Option.some.inj h]; rfl
  · split at h
    · -- the byte is `LOW`
      next hv => rw [hv, ← Option.some.inj h]; rfl
    · cases h

/-- Settles O11: `LOW` and `HIGH` differ, and no other byte has a value. -/
theorem decodedClassIsTheBit : Obligations.DecodedClassIsTheBit :=
  fun _ hp => ⟨decodeClass_timingClass (paramsOK_low_ne_high hp), fun _ _ => eq_timingClass_of_decodeClass⟩

end Sys2Proof.Machine
end

section
/-! What an accepted instruction and one move can do, kind by kind: `exec_next` and `blockMove_next` with the instruction
named, and the tick and the driver beside them, in one inversion that the claims about steps share. -/

namespace Sys2Proof.Machine

/-- The operations that write to the buffer (20_memory.md R61). -/
def Writes (i : Instr) : Prop := i ≠ .showFrame ∧ ∀ r g b, i ≠ .pack r g b

/-- The operation has the LED index `index`. -/
def HasIndex (i : Instr) (index : LedIndex) : Prop :=
  ∃ r g b p, i = .setColor index r g b ∨ i = .setColorPacked index p

/-- One move of one agent that ends in a next state, one constructor for each thing it can do. -/
inductive MoveMade (s : State) : Move → State → Prop
  | present : MoveMade s .host s.present
  | noWord (hx : s.txState = .idle) (hw : s.held = none) : MoveMade s .block s
  | illegal (w : CmdWord) (e : IllegalWord) (hx : s.txState = .idle) (hw : s.held = some w) (hd : decode w = .error e) :
      MoveMade s .block (s.takeHeld.raise .illegalCommand)
  | writes (w : CmdWord) (i : Instr) (cs : List Host.Cell) (hx : s.txState = .idle) (hw : s.held = some w)
      (hd : decode w = .ok i) (hi : Writes i) (hcs : s.cfg.rangePolicy = .reject → ∀ c ∈ cs, c.1 < ledEnd s.cfg) :
      MoveMade s .block ((s.takeHeld.afterWrites cs).respond statusOk 0)
  | rangeError (w : CmdWord) (i : Instr) (index : LedIndex) (hx : s.txState = .idle) (hw : s.held = some w)
      (hd : decode w = .ok i) (hi : HasIndex i index) (hn : s.cfg.n ≤ index.toNat) (hp : s.cfg.rangePolicy = .reject) :
      MoveMade s .block (s.takeHeld.raise .rangeError)
  | packed (w : CmdWord) (r g b : Byte) (hx : s.txState = .idle) (hw : s.held = some w)
      (hd : decode w = .ok (.pack r g b)) : MoveMade s .block (s.takeHeld.respond statusOk (packColour r g b))
  | beginShow (w : CmdWord) (hx : s.txState = .idle) (hw : s.held = some w) (hd : decode w = .ok .showFrame) :
      MoveMade s .block s.takeHeld.beginShow
  | arm (w : ArmWrite) (hx : s.txState = .arming w) : MoveMade s .block (armStep w s)
  | startDraining (hx : s.txState = .transmitting) : MoveMade s .block (startDraining s)
  | drain (w : DrainWrite) (hx : s.txState = .draining w) : MoveMade s .block (drainStep w s)
  | tickOff (ht : s.timEn = false) : MoveMade s .tick s
  | drive (ht : s.timEn = true) (hc : s.cnt ≠ 0 ∨ s.dmaEn = false) : MoveMade s .tick (driveTick s)
  | raiseDone (ht : s.timEn = true) (hc : s.cnt = 0) (hd : s.dmaEn = true) (hn : s.dmaCnt = 0) :
      MoveMade s .tick (driveTick s.raiseDone)
  | beat (ht : s.timEn = true) (hc : s.cnt = 0) (hd : s.dmaEn = true) (hn : 0 < s.dmaCnt) (hp : s.dmaPtr < bufLen s.cfg) :
      MoveMade s .tick (driveTick (s.copyByte (s.readByte s.dmaPtr)))
  | reset : MoveMade s .reset s.resetBlock

/-- Both colour operations: the slice is written, or the index is out of range. -/
theorem setColourAt_cases {index : LedIndex} {r g b : Byte} {s t : State} (h : setColourAt index r g b s = .next t) :
    (∃ cs, (s.cfg.rangePolicy = .reject → ∀ c ∈ cs, c.1 < ledEnd s.cfg) ∧ t = (s.afterWrites cs).respond statusOk 0)
      ∨ (s.cfg.n ≤ index.toNat ∧ s.cfg.rangePolicy = .reject ∧ t = s.raise .rangeError) := by
  obtain ⟨hi, rfl⟩ | hrange := setColourAt_next h
  · refine .inl ⟨_, fun hp c hc => ?_, rfl⟩
    have hlt : index.toNat < s.cfg.n := hi.resolve_right (by simp [hp])
    have haddr := sliceCells_addr hc
    unfold ledEnd
    omega
  · exact .inr hrange

/-- What each instruction can do when it ends in a next state. -/
theorem exec_cases {i : Instr} {s t : State} (h : exec i s = .next t) :
    (Writes i ∧ ∃ cs, (s.cfg.rangePolicy = .reject → ∀ c ∈ cs, c.1 < ledEnd s.cfg)
        ∧ t = (s.afterWrites cs).respond statusOk 0)
      ∨ (∃ index, HasIndex i index ∧ s.cfg.n ≤ index.toNat ∧ s.cfg.rangePolicy = .reject ∧ t = s.raise .rangeError)
      ∨ (∃ r g b, i = .pack r g b ∧ t = s.respond statusOk (packColour r g b))
      ∨ (i = .showFrame ∧ t = s.beginShow) := by
  cases i with
  | setColor index r g b =>
    obtain hw | hr := setColourAt_cases h
    · exact .inl ⟨⟨nofun, nofun⟩, hw⟩
    · exact .inr (.inl ⟨index, ⟨r, g, b, 0, .inl rfl⟩, hr⟩)
  | setColorPacked index p =>
    obtain hw | hr := setColourAt_cases h
    · exact .inl ⟨⟨nofun, nofun⟩, hw⟩
    · exact .inr (.inl ⟨index, ⟨0, 0, 0, p, .inr rfl⟩, hr⟩)
  | clear =>
    have hclear := Host.Outcome.next.inj ((execClear_eq s).symm.trans h)
    refine .inl ⟨⟨nofun, nofun⟩, clearCells s.cfg, fun _ c hc => clearCells_lt hc, ?_⟩
    rw [State.afterWrites_of_forall fun c hc => Nat.lt_of_lt_of_le (clearCells_lt hc) (Nat.le_add_right _ _)]
    exact hclear.symm
  | pack r g b => exact .inr (.inr (.inl ⟨r, g, b, rfl, (Host.Outcome.next.inj h).symm⟩))
  | showFrame => exact .inr (.inr (.inr ⟨rfl, (Host.Outcome.next.inj h).symm⟩))

theorem moveMade_of_blockMove {s t : State} (h : blockMove s = .next t) : MoveMade s .block t := by
  obtain ⟨hx, hw, rfl⟩ | ⟨w, e, hx, hw, hd, rfl⟩ | ⟨w, i, hx, hw, hd, hexec⟩ | ⟨w, hx, rfl⟩ | ⟨hx, rfl⟩ | ⟨w, hx, rfl⟩ :=
    blockMove_next h
  · exact .noWord hx hw
  · exact .illegal w e hx hw hd
  · obtain ⟨hi, cs, hcs, rfl⟩ | ⟨index, hi, hn, hp, rfl⟩ | ⟨r, g, b, rfl, rfl⟩ | ⟨rfl, rfl⟩ := exec_cases hexec
    · exact .writes w i cs hx hw hd hi hcs
    · exact .rangeError w i index hx hw hd hi hn hp
    · exact .packed w r g b hx hw hd
    · exact .beginShow w hx hw hd
  · exact .arm w hx
  · exact .startDraining hx
  · exact .drain w hx

theorem moveMade_of_tick {s t : State} (h : tick s = .next t) : MoveMade s .tick t := by
  obtain ⟨ht, rfl⟩ | ⟨ht, hc, rfl⟩ | ⟨ht, hc, hd, hn, rfl⟩ | ⟨ht, hc, hd, hn, hp, rfl⟩ := tick_next h
  · exact .tickOff ht
  · exact .drive ht hc
  · exact .raiseDone ht hc hd hn
  · exact .beat ht hc hd hn hp

/-- A step makes its next move, in the state in which the move has been taken. -/
theorem moveMade_of_step {s t : State} (h : step s = .next t) :
    paramsOK s.cfg = true ∧ MoveMade s.advance s.nextMove t := by
  obtain ⟨hp, ⟨hm, rfl⟩ | ⟨hm, hb⟩ | ⟨hm, ht⟩ | ⟨hm, rfl⟩⟩ := step_next h
  · exact ⟨hp, hm ▸ .present⟩
  · exact ⟨hp, hm ▸ moveMade_of_blockMove hb⟩
  · exact ⟨hp, hm ▸ moveMade_of_tick ht⟩
  · exact ⟨hp, hm ▸ .reset⟩

end Sys2Proof.Machine
end

section
/-! The invariant of the block (10_state.md section 1): every kind of move keeps it. -/

namespace Sys2Proof.Machine

theorem BlockOK.advance {s : State} (h : BlockOK s) : BlockOK s.advance := by
  unfold State.advance
  split <;> exact h

theorem BlockOK.period_pos {s : State} (h : BlockOK s) : 0 < s.cfg.period := by
  obtain ⟨-, -, -, hcnt, -⟩ := h
  exact Nat.zero_lt_of_lt hcnt

/-- The buffer is not empty, since `GAP` is at least 1 (00_scope.md R8). -/
theorem bufLen_pos_of_paramsOK {p : Params} (h : paramsOK p = true) : 0 < bufLen p := by
  simp only [paramsOK, Bool.and_eq_true, decide_eq_true_eq] at h
  obtain ⟨⟨⟨⟨-, hgap⟩, -⟩, -⟩, -⟩ := h
  exact Nat.lt_of_lt_of_le hgap (Nat.le_add_left _ _)

theorem BlockOK.bufLen_pos {s : State} (h : BlockOK s) : 0 < bufLen s.cfg := bufLen_pos_of_paramsOK h.1

/-- What holds while the timer runs: the channel's two counters cover the buffer, `DONE` comes with the last byte, and the
driver waits, polls, or has not yet made its second completion write. -/
theorem BlockOK.running {s : State} (h : BlockOK s) (ht : s.timEn = true) :
    s.dmaPtr + s.dmaCnt = bufLen s.cfg ∧ (s.done = true → s.dmaCnt = 0)
      ∧ (s.txState = .transmitting ∧ s.dmaEn = true
        ∨ s.txState = .draining .poll ∧ s.dmaEn = true
        ∨ s.txState = .draining .disableDma ∧ s.dmaEn = true ∧ s.done = true
        ∨ s.txState = .draining .disableTimer ∧ s.dmaEn = false ∧ s.done = true) := by
  obtain ⟨-, -, -, -, -, -, hdriver⟩ := h
  unfold DriverOK at hdriver
  cases hx : s.txState with
  | idle => simp_all
  | arming w => simp_all
  | transmitting => simp_all
  | draining w =>
    rw [hx] at hdriver
    obtain ⟨hsum, hdone, -, htim, hdma, hdoneAt, -⟩ := hdriver
    cases w <;> simp_all

/-- Past the polls the channel has passed the whole buffer. -/
theorem BlockOK.dmaPtr_eq_bufLen {s : State} (h : BlockOK s) {w : DrainWrite} (hx : s.txState = .draining w)
    (hw : w ≠ .poll) : s.dmaPtr = bufLen s.cfg := by
  obtain ⟨-, -, -, -, -, -, hdriver⟩ := h
  simp only [DriverOK, hx] at hdriver
  obtain ⟨hsum, -, hleft, -⟩ := hdriver
  rwa [hleft hw, Nat.add_zero] at hsum

/-- In `Idle` the timer, the channel, the flag and the pin are off. -/
theorem BlockOK.idle {s : State} (h : BlockOK s) (hx : s.txState = .idle) :
    s.timEn = false ∧ s.dmaEn = false ∧ s.done = false ∧ s.dout = false := by
  obtain ⟨-, -, -, -, -, -, hdriver⟩ := h
  simpa only [DriverOK, hx] using hdriver

/-- Driving the pin counts within the period; the pin is free while the timer runs. -/
theorem BlockOK.driveTick {s : State} (h : BlockOK s) (ht : s.timEn = true) : BlockOK (driveTick s) := by
  have hcnt : (s.cnt + 1) % s.cfg.period < s.cfg.period := Nat.mod_lt _ h.period_pos
  obtain ⟨-, -, hstate⟩ := h.running ht
  obtain ⟨hp, hwf, hgap, -, hptr, hleft, hdriver⟩ := h
  refine ⟨hp, hwf, hgap, hcnt, hptr, hleft, ?_⟩
  unfold DriverOK at hdriver ⊢
  rw [driveTick_txState]
  obtain ⟨hx, -⟩ | ⟨hx, -⟩ | ⟨hx, -⟩ | ⟨hx, -⟩ := hstate <;> rw [hx] at hdriver ⊢
  · exact hdriver
  all_goals
    obtain ⟨hsum, hdone, hpast, htim, hdma, hset, -, hreturn⟩ := hdriver
    exact ⟨hsum, hdone, hpast, htim, hdma, hset, nofun, hreturn⟩

/-- The completion flag rises when no byte is left. -/
theorem BlockOK.raiseDone {s : State} (h : BlockOK s) (ht : s.timEn = true) (hn : s.dmaCnt = 0) : BlockOK s.raiseDone := by
  obtain ⟨-, -, hstate⟩ := h.running ht
  obtain ⟨hp, hwf, hgap, hcnt, hptr, hleft, hdriver⟩ := h
  refine ⟨hp, hwf, hgap, hcnt, hptr, hleft, ?_⟩
  unfold DriverOK at hdriver ⊢
  rw [State.raiseDone_txState]
  obtain ⟨hx, -⟩ | ⟨hx, -⟩ | ⟨hx, -⟩ | ⟨hx, -⟩ := hstate <;> rw [hx] at hdriver ⊢
  · obtain ⟨htim, hdma, hsum, -⟩ := hdriver
    exact ⟨htim, hdma, hsum, fun _ => hn⟩
  all_goals
    obtain ⟨hsum, -, hpast, htim, hdma, -, hlow, -⟩ := hdriver
    exact ⟨hsum, fun _ => hn, hpast, htim, hdma, fun _ => rfl, hlow, nofun⟩

/-- A beat moves one byte from the channel's second counter to its first; past the polls no byte is left. -/
theorem BlockOK.copyByte {s : State} (h : BlockOK s) (ht : s.timEn = true) (hn : 0 < s.dmaCnt) (v : Byte) :
    BlockOK (s.copyByte v) := by
  obtain ⟨hsum, hdone, hstate⟩ := h.running ht
  have hclear : s.done = false := Bool.eq_false_iff.2 fun hset => hn.ne' (hdone hset)
  have hsum' : s.dmaPtr + 1 + (s.dmaCnt - 1) = bufLen s.cfg := by omega
  obtain ⟨hp, hwf, hgap, hcnt, -, -, hdriver⟩ := h
  refine ⟨hp, hwf, hgap, hcnt, ?_, ?_, ?_⟩
  · exact Nat.le_of_add_right_le hsum'.le
  · exact Nat.le_of_add_left_le hsum'.le
  · unfold DriverOK at hdriver ⊢
    rw [State.copyByte_txState]
    obtain ⟨hx, -⟩ | ⟨hx, -⟩ | ⟨-, -, hset⟩ | ⟨-, -, hset⟩ := hstate
    · rw [hx] at hdriver ⊢
      simp_all
    · rw [hx] at hdriver ⊢
      simp_all
    all_goals exact absurd (hclear.symm.trans hset) Bool.false_ne_true

/-- The five arming writes. -/
theorem BlockOK.armStep {s : State} (h : BlockOK s) {w : ArmWrite} (hx : s.txState = .arming w) :
    BlockOK (armStep w s) := by
  have hperiod := h.period_pos
  obtain ⟨hp, hwf, hgap, hcnt, hptr, hleft, hdriver⟩ := h
  simp only [DriverOK, hx] at hdriver
  refine ⟨by simpa, by simpa, by simpa [GapZero] using hgap, ?_, ?_, ?_, ?_⟩
  all_goals cases w <;> simp_all [Machine.armStep, DriverOK]

/-- The polls, the completion writes and the return. -/
theorem BlockOK.drainStep {s : State} (h : BlockOK s) {w : DrainWrite} (hx : s.txState = .draining w) :
    BlockOK (drainStep w s) := by
  obtain ⟨hp, hwf, hgap, hcnt, hptr, hleft, hdriver⟩ := h
  refine ⟨by simpa, by simpa, by simpa [GapZero] using hgap, by simpa, by simpa, by simpa, ?_⟩
  simp only [DriverOK, hx] at hdriver
  obtain ⟨hsum, hdone, hpast, htim, hdma, hdoneAt, hlow, hclear⟩ := hdriver
  cases w with
  | poll =>
    simp only [Machine.drainStep, pollStep]
    cases hflag : s.done <;> simp_all [DriverOK]
  | disableDma | disableTimer | clearDone | returnToIdle => simp_all [Machine.drainStep, DriverOK]

/-- Writes of an encoder operation in `Idle`: under `reject` none lies in the gap region (40_encoder.md R100). -/
theorem BlockOK.afterWrites {s : State} (h : BlockOK s) {cs : List Host.Cell}
    (hcs : s.cfg.rangePolicy = .reject → ∀ c ∈ cs, c.1 < ledEnd s.cfg) : BlockOK (s.afterWrites cs) := by
  obtain ⟨hp, hwf, hgap, hrest⟩ := h
  refine ⟨hp, State.afterWrites_wf cs hwf, fun hpol a hled hlt => ?_, hrest⟩
  rw [State.readByte_afterWrites_of_not_mem s fun c hc _ => Nat.ne_of_lt (Nat.lt_of_lt_of_le (hcs hpol c hc) hled)]
  exact hgap hpol a hled hlt

/-- The acceptance of a SHOW in `Idle`, where the block is clean. -/
theorem BlockOK.beginShow {s : State} (h : BlockOK s) (hx : s.txState = .idle) : BlockOK s.beginShow := by
  obtain ⟨hp, hwf, hgap, hcnt, hptr, hleft, hdriver⟩ := h
  refine ⟨hp, hwf, hgap, hcnt, hptr, hleft, ?_⟩
  simp_all [DriverOK]

/-- From `Transmitting`, where timer and channel run, to the first poll. -/
theorem BlockOK.startDraining {s : State} (h : BlockOK s) (hx : s.txState = .transmitting) : BlockOK (startDraining s) := by
  obtain ⟨hp, hwf, hgap, hcnt, hptr, hleft, hdriver⟩ := h
  refine ⟨hp, hwf, hgap, hcnt, hptr, hleft, ?_⟩
  simp_all [DriverOK]

/-- A state with every register at its reset value and no byte listed meets the invariant. -/
theorem blockOK_resetWith {p : Params} (hp : paramsOK p = true) (resets : Nat) (program : List CmdWord) (sched : List Move)
    (moveNo : Nat) (outside : List Host.Cell) : BlockOK (State.resetWith p resets program sched moveNo outside) := by
  obtain ⟨-, -, hper⟩ := paramsOK_pulses hp
  refine ⟨hp, Memory.nil_wf p, fun _ a hled _ => ?_, Nat.zero_lt_of_lt hper, Nat.zero_le _, Nat.zero_le _, rfl, rfl, rfl, rfl⟩
  have hgap : Memory.unlisted p a = some 0x00#8 := if_neg (Nat.not_lt.2 hled)
  simp [State.readByte_eq_view, Memory.view, Memory.lookup, State.resetWith, hgap]

theorem BlockOK.moveMade {s : State} {m : Move} {t : State} (h : BlockOK s) (hm : MoveMade s m t) : BlockOK t := by
  cases hm with
  | present => unfold State.present; split <;> exact h
  | noWord | tickOff | illegal | rangeError | packed => exact h
  | writes w i cs hx hw hd hi hcs => exact BlockOK.afterWrites (s := s.takeHeld) h hcs
  | beginShow w hx => exact BlockOK.beginShow (s := s.takeHeld) h hx
  | arm w hx => exact h.armStep hx
  | startDraining hx => exact h.startDraining hx
  | drain w hx => exact h.drainStep hx
  | drive ht hc => exact h.driveTick ht
  | raiseDone ht hc hd hn => exact (h.raiseDone ht hn).driveTick ht
  | beat ht hc hd hn hp => exact (h.copyByte ht hn _).driveTick ht
  | reset => exact blockOK_resetWith h.1 _ _ _ _ _

/-- Settles O42: each kind of move keeps the invariant, and the choice of the move does not touch it. -/
theorem everyStepKeepsTheInvariant : Obligations.EveryStepKeepsTheInvariant :=
  fun _ _ h hs => h.advance.moveMade (moveMade_of_step hs).2

end Sys2Proof.Machine
end

section
/-! Which shows are answered, in each state of the driver. -/

namespace Sys2Proof.Machine

/-- The driver has armed the streamer and has not yet answered (41_transmit.md R106). -/
def Sending (s : State) : Prop := s.txState = .transmitting ∨ ∃ w, s.txState = .draining w

theorem Sending.ne_idle {s : State} (h : Sending s) : s.txState ≠ .idle := by
  obtain hx | ⟨w, hx⟩ := h <;> simp [hx]

theorem answered_iff_of_idle {s : State} {k : Nat} (h : s.txState = .idle) : Answered s k ↔ 1 ≤ k ∧ k ≤ s.showNo := by
  simp only [Answered, h, and_true, Nat.le_iff_lt_or_eq]

theorem answered_iff_of_ne_idle {s : State} {k : Nat} (h : s.txState ≠ .idle) :
    Answered s k ↔ 1 ≤ k ∧ k < s.showNo := by
  simp [Answered, h]

/-- The timer runs while the streamer is armed only. -/
theorem BlockOK.sending {s : State} (h : BlockOK s) (ht : s.timEn = true) : Sending s := by
  obtain ⟨-, -, ⟨hx, -⟩ | ⟨hx, -⟩ | ⟨hx, -⟩ | ⟨hx, -⟩⟩ := h.running ht
  · exact .inl hx
  all_goals exact .inr ⟨_, hx⟩

end Sys2Proof.Machine
end

section
/-! The stream (41_transmit.md R107, R110): one pass over the buffer per show. -/

namespace Sys2Proof.Machine

theorem StreamOK.advance {s : State} (h : StreamOK s) : StreamOK s.advance := by
  unfold State.advance
  split <;> exact h

theorem streamOK_iff_of_idle {s : State} (hx : s.txState = .idle) :
    StreamOK s ↔ (∀ e ∈ s.stream, 1 ≤ e.1 ∧ e.1 ≤ s.showNo)
      ∧ ∀ k, 1 ≤ k → k ≤ s.showNo → (s.streamOf k).length = bufLen s.cfg := by
  simp [StreamOK, answered_iff_of_idle hx, hx]

theorem streamOK_iff_of_arming {s : State} {w : ArmWrite} (hx : s.txState = .arming w) :
    StreamOK s ↔ (∀ e ∈ s.stream, 1 ≤ e.1 ∧ e.1 ≤ s.showNo)
      ∧ (∀ k, 1 ≤ k → k < s.showNo → (s.streamOf k).length = bufLen s.cfg)
      ∧ 1 ≤ s.showNo ∧ s.streamOf s.showNo = [] := by
  have hbusy : s.txState ≠ .idle := by simp [hx]
  simp [StreamOK, answered_iff_of_ne_idle hbusy, hx]

theorem streamOK_iff_of_sending {s : State} (hx : Sending s) :
    StreamOK s ↔ (∀ e ∈ s.stream, 1 ≤ e.1 ∧ e.1 ≤ s.showNo)
      ∧ (∀ k, 1 ≤ k → k < s.showNo → (s.streamOf k).length = bufLen s.cfg)
      ∧ 1 ≤ s.showNo ∧ s.streamOf s.showNo = (List.range s.dmaPtr).map s.readByte := by
  simp only [StreamOK, answered_iff_of_ne_idle hx.ne_idle]
  obtain hx | ⟨w, hx⟩ := hx <;> simp [hx]

/-- A new show has copied nothing yet, and the shows before it are answered. -/
theorem StreamOK.beginShow {s : State} (h : StreamOK s) (hx : s.txState = .idle) : StreamOK s.beginShow := by
  obtain ⟨htags, hdone⟩ := (streamOK_iff_of_idle hx).1 h
  refine (streamOK_iff_of_arming (w := .resetCounter) rfl).2
    ⟨fun e he => ⟨(htags e he).1, Nat.le_succ_of_le (htags e he).2⟩, fun k h1 h2 => hdone k h1 (Nat.le_of_lt_succ h2),
      Nat.le_add_left _ _, ?_⟩
  exact history_of_later_show s.stream _ s.showNo htags (Nat.lt_succ_self _)

/-- The arming writes copy nothing; the last starts at `DMA_PTR = 0`. -/
theorem StreamOK.armStep {s : State} (hb : BlockOK s) (h : StreamOK s) {w : ArmWrite} (hx : s.txState = .arming w) :
    StreamOK (armStep w s) := by
  have hold := (streamOK_iff_of_arming hx).1 h
  cases w with
  | resetCounter => exact (streamOK_iff_of_arming (w := .setSource) rfl).2 hold
  | setSource => exact (streamOK_iff_of_arming (w := .setLength) rfl).2 hold
  | setLength => exact (streamOK_iff_of_arming (w := .enableDma) rfl).2 hold
  | enableDma => exact (streamOK_iff_of_arming (w := .enableTimer) rfl).2 hold
  | enableTimer =>
    have hptr : s.dmaPtr = 0 := by
      obtain ⟨-, -, -, -, -, -, hdriver⟩ := hb
      simp_all [DriverOK]
    refine (streamOK_iff_of_sending (.inl rfl)).2 ?_
    simpa [Machine.armStep, hptr, State.streamOf] using hold

/-- The driver's polls and completion writes copy nothing; at the return the channel has passed the whole buffer. -/
theorem StreamOK.drainStep {s : State} (hb : BlockOK s) (h : StreamOK s) {w : DrainWrite} (hx : s.txState = .draining w) :
    StreamOK (drainStep w s) := by
  have hold := (streamOK_iff_of_sending (.inr ⟨w, hx⟩)).1 h
  cases w with
  | poll =>
    simp only [Machine.drainStep, pollStep]
    split
    · exact (streamOK_iff_of_sending (.inr ⟨.disableDma, rfl⟩)).2 hold
    · exact h
  | disableDma => exact (streamOK_iff_of_sending (.inr ⟨.disableTimer, rfl⟩)).2 hold
  | disableTimer => exact (streamOK_iff_of_sending (.inr ⟨.clearDone, rfl⟩)).2 hold
  | clearDone => exact (streamOK_iff_of_sending (.inr ⟨.returnToIdle, rfl⟩)).2 hold
  | returnToIdle =>
    obtain ⟨htags, hdone, -, hlast⟩ := hold
    refine (streamOK_iff_of_idle rfl).2 ⟨htags, fun k h1 h2 => ?_⟩
    obtain hlt | rfl : k < s.showNo ∨ k = s.showNo := Nat.lt_or_eq_of_le h2
    · exact hdone k h1 hlt
    · exact (congrArg List.length hlast).trans (by simp [hb.dmaPtr_eq_bufLen hx])

/-- A beat adds the byte at the channel's position to the show in progress. -/
theorem StreamOK.copyByte {s : State} (h : StreamOK s) (hx : Sending s) :
    StreamOK (s.copyByte (s.readByte s.dmaPtr)) := by
  obtain ⟨htags, hdone, hshow, hcur⟩ := (streamOK_iff_of_sending hx).1 h
  refine (streamOK_iff_of_sending (s := s.copyByte _) hx).2 ⟨fun e he => ?_, fun k h1 h2 => ?_, hshow, ?_⟩
  · obtain he | rfl : e ∈ s.stream ∨ e = (s.showNo, s.readByte s.dmaPtr) := by simpa using he
    · exact htags e he
    · exact ⟨hshow, le_rfl⟩
  · have hne : s.showNo ≠ k := Nat.ne_of_gt h2
    simpa [State.copyByte_streamOf, hne] using hdone k h1 h2
  · simp [State.copyByte_streamOf, hcur, List.range_succ]

/-- After a reset there is no show. -/
theorem streamOK_resetWith (p : Params) (resets : Nat) (program : List CmdWord) (sched : List Move) (moveNo : Nat)
    (outside : List Host.Cell) : StreamOK (State.resetWith p resets program sched moveNo outside) :=
  (streamOK_iff_of_idle rfl).2 ⟨nofun, fun _ h1 h2 => absurd (Nat.le_trans h1 h2) (Nat.not_succ_le_zero 0)⟩

theorem StreamOK.moveMade {s : State} {m : Move} {t : State} (hb : BlockOK s) (h : StreamOK s) (hm : MoveMade s m t) :
    StreamOK t := by
  cases hm with
  | present => unfold State.present; split <;> exact h
  | noWord | tickOff | illegal | rangeError | packed | drive | raiseDone => exact h
  | writes w i cs hx hw hd hi hcs =>
    exact (streamOK_iff_of_idle (s := (s.takeHeld.afterWrites cs).respond statusOk 0) hx).2
      ((streamOK_iff_of_idle hx).1 h)
  | beginShow w hx => exact StreamOK.beginShow (s := s.takeHeld) h hx
  | arm w hx => exact h.armStep hb hx
  | startDraining hx => exact (streamOK_iff_of_sending (.inr ⟨.poll, rfl⟩)).2 ((streamOK_iff_of_sending (.inl hx)).1 h)
  | drain w hx => exact h.drainStep hb hx
  | beat ht hc hd hn hp => exact h.copyByte (hb.sending ht)
  | reset => exact streamOK_resetWith _ _ _ _ _ _

/-- Settles O43: only a beat copies a byte, only the acceptance of a SHOW begins a show, and only the return ends one. -/
theorem everyStepKeepsTheStream : Obligations.EveryStepKeepsTheStream :=
  fun _ _ hb h hs => h.advance.moveMade hb.advance (moveMade_of_step hs).2

end Sys2Proof.Machine
end

section
/-! The line (42_waveform.md R131, R135): each tick has the level of its cell, and `DONE` rises in tick `L * PERIOD`. -/

namespace Sys2Proof.Machine

/-! ## How many cells `n` ticks have opened -/

/-- At a cell's boundary the cells opened are the cells finished. -/
theorem cellsOpened_of_mod_eq_zero {n p : Nat} (hp : 0 < p) (h : n % p = 0) : (n + p - 1) / p = n / p := by
  obtain ⟨q, rfl⟩ := Nat.dvd_of_mod_eq_zero h
  rw [Nat.add_sub_assoc hp, Nat.mul_add_div hp, Nat.mul_div_cancel_left q hp, Nat.div_eq_of_lt (Nat.sub_one_lt hp.ne'),
    Nat.add_zero]

/-- Inside a cell one more cell has been opened than finished. -/
theorem cellsOpened_of_mod_ne_zero {n p : Nat} (hp : 0 < p) (h : n % p ≠ 0) : (n + p - 1) / p = n / p + 1 := by
  have hn : 0 < n := Nat.pos_of_ne_zero fun h0 => h (by rw [h0, Nat.zero_mod])
  have hmod : n % p - 1 < p := Nat.lt_of_le_of_lt (Nat.sub_le _ _) (Nat.mod_lt n hp)
  have hsplit : n + p - 1 = p * (n / p + 1) + (n % p - 1) := by
    have := Nat.div_add_mod n p
    rw [Nat.mul_add, Nat.mul_one]
    omega
  rw [hsplit, Nat.mul_add_div hp, Nat.div_eq_of_lt hmod, Nat.add_zero]

/-- After tick number `n` the cell of tick `n` has been opened. -/
theorem cellsOpened_succ {n p : Nat} (hp : 0 < p) : (n + 1 + p - 1) / p = n / p + 1 := by
  rw [Nat.add_right_comm, Nat.add_sub_cancel, Nat.add_div_right n hp]

/-! ## The progress of one show -/

/-- The level of a tick depends on the parameters and the buffer only. -/
theorem frameLevel_congr {s t : State} (hcfg : t.cfg = s.cfg) (hread : t.readByte = s.readByte) :
    frameLevel t = frameLevel s := by
  funext n
  simp only [frameLevel, hcfg, hread]

/-- One tick: `u` is the state in which the tick has opened a cell or not, and drives the pin. All that the line needs is
that `u` has read the byte of the tick's cell. -/
theorem LineProgress.driveTick {s u : State} {n : Nat} (h : LineProgress s n) (hp : 0 < s.cfg.period)
    (hcfg : u.cfg = s.cfg) (hread : u.readByte = s.readByte) (hline : u.line = s.line) (hshow : u.showNo = s.showNo)
    (hcnt : u.cnt = s.cnt) (hptr : u.dmaPtr = min (bufLen s.cfg) (n / s.cfg.period + 1))
    (hccr : u.ccr = s.readByte (u.dmaPtr - 1)) : LineProgress (driveTick u) (n + 1) := by
  obtain ⟨hlevels, hcount, -⟩ := h
  have hlevel : wave u.ccr u.cnt = frameLevel s n := by
    have hcell : min (bufLen s.cfg) (n / s.cfg.period + 1) - 1 = min (n / s.cfg.period) (bufLen s.cfg - 1) := by
      rw [← Nat.sub_min_sub_right, Nat.add_sub_cancel, Nat.min_comm]
    rw [frameLevel, hccr, hptr, hcell, hcnt, hcount]
  have hframe : frameLevel (Machine.driveTick u) = frameLevel s := frameLevel_congr hcfg (by simpa using hread)
  have hlineOf : u.lineOf u.showNo = s.lineOf s.showNo := by rw [State.lineOf, State.lineOf, hline, hshow]
  refine ⟨?_, ?_, ?_, fun _ => ?_, fun _ => ?_⟩
  · rw [driveTick_showNo, driveTick_lineOf, if_pos rfl, hlineOf, hlevels, hlevel, hframe, List.range_succ, List.map_append,
      List.map_singleton]
  · rw [driveTick_cnt, driveTick_cfg, hcfg, hcnt, hcount, Nat.mod_add_mod]
  · rw [driveTick_dmaPtr, driveTick_cfg, hcfg, cellsOpened_succ hp, hptr]
  · rw [driveTick_ccr, driveTick_dmaPtr, State.readByte_driveTick, hread, hccr]
  · rw [driveTick_dout, hframe, hlevel, Nat.add_sub_cancel, decide_eq_true (Nat.succ_pos n), Bool.true_and]

/-! ## The invariant in each state of the driver -/

theorem LineOK.advance {s : State} (h : LineOK s) : LineOK s.advance := by
  unfold State.advance
  split <;> exact h

theorem lineOK_iff_of_idle {s : State} (hx : s.txState = .idle) :
    LineOK s ↔ (∀ e ∈ s.line, 1 ≤ e.1 ∧ e.1 ≤ s.showNo)
      ∧ ∀ k, 1 ≤ k → k ≤ s.showNo → bufLen s.cfg * s.cfg.period < (s.lineOf k).length := by
  simp [LineOK, answered_iff_of_idle hx, hx]

theorem lineOK_iff_of_arming {s : State} {w : ArmWrite} (hx : s.txState = .arming w) :
    LineOK s ↔ (∀ e ∈ s.line, 1 ≤ e.1 ∧ e.1 ≤ s.showNo)
      ∧ (∀ k, 1 ≤ k → k < s.showNo → bufLen s.cfg * s.cfg.period < (s.lineOf k).length)
      ∧ 1 ≤ s.showNo ∧ s.lineOf s.showNo = [] := by
  have hbusy : s.txState ≠ .idle := by simp [hx]
  simp [LineOK, answered_iff_of_ne_idle hbusy, hx]

theorem lineOK_iff_of_sending {s : State} (hx : Sending s) :
    LineOK s ↔ (∀ e ∈ s.line, 1 ≤ e.1 ∧ e.1 ≤ s.showNo)
      ∧ (∀ k, 1 ≤ k → k < s.showNo → bufLen s.cfg * s.cfg.period < (s.lineOf k).length)
      ∧ 1 ≤ s.showNo ∧ LineProgress s (s.lineOf s.showNo).length
      ∧ (s.done = true ∨ s.txState = .draining .returnToIdle ↔
          bufLen s.cfg * s.cfg.period < (s.lineOf s.showNo).length) := by
  simp only [LineOK, answered_iff_of_ne_idle hx.ne_idle]
  obtain hx | ⟨w, hx⟩ := hx <;> simp [hx]

/-! ## Every move keeps it -/

/-- A new show has no level yet, and the shows before it are answered. -/
theorem LineOK.beginShow {s : State} (h : LineOK s) (hx : s.txState = .idle) : LineOK s.beginShow := by
  obtain ⟨htags, hdone⟩ := (lineOK_iff_of_idle hx).1 h
  refine (lineOK_iff_of_arming (w := .resetCounter) rfl).2
    ⟨fun e he => ⟨(htags e he).1, Nat.le_succ_of_le (htags e he).2⟩, fun k h1 h2 => hdone k h1 (Nat.le_of_lt_succ h2),
      Nat.le_add_left _ _, ?_⟩
  exact history_of_later_show s.line _ s.showNo htags (Nat.lt_succ_self _)

/-- The arming writes record no level; the last starts the line with the counters at 0 and the pin low. -/
theorem LineOK.armStep {s : State} (hb : BlockOK s) (h : LineOK s) {w : ArmWrite} (hx : s.txState = .arming w) :
    LineOK (armStep w s) := by
  have hold := (lineOK_iff_of_arming hx).1 h
  cases w with
  | resetCounter => exact (lineOK_iff_of_arming (w := .setSource) rfl).2 hold
  | setSource => exact (lineOK_iff_of_arming (w := .setLength) rfl).2 hold
  | setLength => exact (lineOK_iff_of_arming (w := .enableDma) rfl).2 hold
  | enableDma => exact (lineOK_iff_of_arming (w := .enableTimer) rfl).2 hold
  | enableTimer =>
    obtain ⟨htags, hdone, hshow, hnone⟩ := hold
    have hperiod := hb.period_pos
    obtain ⟨-, -, -, -, -, -, hdriver⟩ := hb
    obtain ⟨hflag, hlow, hcnt, hptr⟩ : s.done = false ∧ s.dout = false ∧ s.cnt = 0 ∧ s.dmaPtr = 0 := by
      simp_all [DriverOK]
    refine (lineOK_iff_of_sending (.inl rfl)).2 ⟨htags, hdone, hshow, ?_⟩
    have hlineOf : (Machine.armStep .enableTimer s).lineOf (Machine.armStep .enableTimer s).showNo = [] := hnone
    have hopened : (0 + s.cfg.period - 1) / s.cfg.period = 0 := by
      rw [cellsOpened_of_mod_eq_zero hperiod (Nat.zero_mod _), Nat.zero_div]
    rw [hlineOf]
    refine ⟨⟨hlineOf, hcnt.trans (Nat.zero_mod _).symm, ?_, nofun, fun _ => hlow⟩, ?_⟩
    · -- no cell has begun
      rw [armStep_cfg, List.length_nil, hopened, Nat.min_zero]
      exact hptr
    · -- the flag is clear, as no tick has been
      refine iff_of_false ?_ (Nat.not_lt_zero _)
      rintro (hset | hx)
      · exact Bool.false_ne_true (hflag.symm.trans hset)
      · cases hx

/-- The flag's clause is the same at every position of the driver but the last. -/
theorem doneFlag_congr {x y : TxState} {p q : Prop} (hx : x ≠ .draining .returnToIdle) (hy : y ≠ .draining .returnToIdle)
    (h : p ∨ x = .draining .returnToIdle ↔ q) : p ∨ y = .draining .returnToIdle ↔ q := by
  simpa only [hx, hy] using h

/-- The driver's polls and completion writes record no level; at the return the frame's ticks have passed. -/
theorem LineOK.drainStep {s : State} (hb : BlockOK s) (h : LineOK s) {w : DrainWrite} (hx : s.txState = .draining w) :
    LineOK (drainStep w s) := by
  obtain ⟨htags, hdone, hshow, hprogress, hflag⟩ := (lineOK_iff_of_sending (.inr ⟨w, hx⟩)).1 h
  cases w with
  | poll =>
    simp only [Machine.drainStep, pollStep]
    split
    · exact (lineOK_iff_of_sending (.inr ⟨.disableDma, rfl⟩)).2
        ⟨htags, hdone, hshow, hprogress, doneFlag_congr (by simp [hx]) nofun hflag⟩
    · exact h
  | disableDma =>
    exact (lineOK_iff_of_sending (.inr ⟨.disableTimer, rfl⟩)).2
      ⟨htags, hdone, hshow, hprogress, doneFlag_congr (by simp [hx]) nofun hflag⟩
  | disableTimer =>
    obtain ⟨hlevels, hcnt, hptr, hccr, -⟩ := hprogress
    exact (lineOK_iff_of_sending (.inr ⟨.clearDone, rfl⟩)).2
      ⟨htags, hdone, hshow, ⟨hlevels, hcnt, hptr, hccr, nofun⟩, doneFlag_congr (by simp [hx]) nofun hflag⟩
  | clearDone =>
    refine (lineOK_iff_of_sending (.inr ⟨.returnToIdle, rfl⟩)).2 ⟨htags, hdone, hshow, hprogress, ?_⟩
    -- `DONE` was set, which the position after its clearing keeps
    have hset : s.done = true := by
      obtain ⟨-, -, -, -, -, -, hdriver⟩ := hb
      simp_all [DriverOK]
    exact iff_of_true (.inr rfl) (hflag.1 (.inl hset))
  | returnToIdle =>
    refine (lineOK_iff_of_idle rfl).2 ⟨htags, fun k h1 h2 => ?_⟩
    obtain hlt | rfl : k < s.showNo ∨ k = s.showNo := Nat.lt_or_eq_of_le h2
    · exact hdone k h1 hlt
    · exact hflag.1 (.inr hx)

/-- A tick records one level of the show in progress: what it must keep of the rest. `u` is the state in which it drives the
pin. -/
theorem LineOK.driveTick {s u : State} (h : LineOK s) (hx : Sending s) (hline : u.line = s.line) (hshow : u.showNo = s.showNo)
    (hcfg : u.cfg = s.cfg) (htx : u.txState = s.txState)
    (hprogress : LineProgress (driveTick u) ((s.lineOf s.showNo).length + 1))
    (hflag : u.done = true ∨ s.txState = .draining .returnToIdle ↔
      bufLen s.cfg * s.cfg.period < (s.lineOf s.showNo).length + 1) : LineOK (driveTick u) := by
  obtain ⟨htags, hdone, hpos, -, -⟩ := (lineOK_iff_of_sending hx).1 h
  have hlineOf : ∀ k, u.lineOf k = s.lineOf k := fun k => by rw [State.lineOf, State.lineOf, hline]
  have hlen : ((Machine.driveTick u).lineOf (Machine.driveTick u).showNo).length = (s.lineOf s.showNo).length + 1 := by
    simp [driveTick_lineOf, hlineOf, hshow]
  have hsending : Sending (Machine.driveTick u) := by simpa [Sending, htx] using hx
  refine (lineOK_iff_of_sending hsending).2 ⟨fun e he => ?_, fun k h1 h2 => ?_, by simpa [hshow] using hpos, ?_, ?_⟩
  · rw [driveTick_showNo, hshow]
    obtain he | rfl : e ∈ s.line ∨ e = (s.showNo, wave u.ccr u.cnt) := by simpa [hline, hshow] using he
    · exact htags e he
    · exact ⟨hpos, le_rfl⟩
  · rw [driveTick_showNo, hshow] at h2
    simpa [driveTick_lineOf, hlineOf, hshow, Nat.ne_of_gt h2, hcfg] using hdone k h1 h2
  · rwa [hlen]
  · rwa [hlen, driveTick_done, driveTick_txState, driveTick_cfg, htx, hcfg]

/-- A tick inside a cell, or with the channel disabled after the whole buffer has passed. -/
theorem LineOK.drive {s : State} (hb : BlockOK s) (h : LineOK s) (ht : s.timEn = true) (hc : s.cnt ≠ 0 ∨ s.dmaEn = false) :
    LineOK (Machine.driveTick s) := by
  have hp := hb.period_pos
  have hL := hb.bufLen_pos
  have hx := hb.sending ht
  obtain ⟨-, -, -, hprogress, hflag⟩ := (lineOK_iff_of_sending hx).1 h
  have hkeep := hprogress
  obtain ⟨-, hcnt, hptr, hccr, -⟩ := hkeep
  generalize hn : (s.lineOf s.showNo).length = n at *
  by_cases hc0 : s.cnt = 0
  · -- the channel is disabled: `DONE` is set, and the last cell's byte stays
    have hoff := hc.resolve_left (not_not_intro hc0)
    have hset : s.done = true := by
      obtain ⟨-, -, ⟨-, hon⟩ | ⟨-, hon⟩ | ⟨-, hon, -⟩ | ⟨-, -, hset⟩⟩ := hb.running ht
      · exact absurd (hon.symm.trans hoff) nofun
      · exact absurd (hon.symm.trans hoff) nofun
      · exact absurd (hon.symm.trans hoff) nofun
      · exact hset
    have hpast : bufLen s.cfg * s.cfg.period < n := hflag.1 (.inl hset)
    have hcells : bufLen s.cfg ≤ n / s.cfg.period := (Nat.le_div_iff_mul_le hp).2 hpast.le
    rw [cellsOpened_of_mod_eq_zero hp (hcnt.symm.trans hc0), Nat.min_eq_left hcells] at hptr
    refine h.driveTick hx rfl rfl rfl rfl ?_ (iff_of_true (.inl hset) (by omega))
    exact hn.symm ▸ hprogress.driveTick hp rfl rfl rfl rfl rfl (by omega) (hccr (by omega))
  · -- inside a cell, whose byte was read at its opening
    have hmod : n % s.cfg.period ≠ 0 := fun h0 => hc0 (hcnt.trans h0)
    rw [cellsOpened_of_mod_ne_zero hp hmod] at hptr
    have hn0 : 0 < n := Nat.pos_of_ne_zero fun h0 => hmod (by rw [h0, Nat.zero_mod])
    have hne : n ≠ bufLen s.cfg * s.cfg.period := fun he => hmod (by rw [he, Nat.mul_mod_left])
    refine h.driveTick hx rfl rfl rfl rfl ?_ (hflag.trans (by omega))
    exact hn.symm ▸ hprogress.driveTick hp rfl rfl rfl rfl rfl hptr (hccr hn0)

/-- The tick in which the completion flag rises: the cells of the whole buffer have passed. -/
theorem LineOK.raiseDone {s : State} (hb : BlockOK s) (h : LineOK s) (ht : s.timEn = true) (hc : s.cnt = 0)
    (hn : s.dmaCnt = 0) : LineOK (Machine.driveTick s.raiseDone) := by
  have hp := hb.period_pos
  have hL := hb.bufLen_pos
  have hx := hb.sending ht
  obtain ⟨hsum, -, -⟩ := hb.running ht
  obtain ⟨-, -, -, hprogress, -⟩ := (lineOK_iff_of_sending hx).1 h
  have hkeep := hprogress
  obtain ⟨-, hcnt, hptr, hccr, -⟩ := hkeep
  rw [cellsOpened_of_mod_eq_zero hp (hcnt.symm.trans hc)] at hptr
  have hcells : bufLen s.cfg ≤ (s.lineOf s.showNo).length / s.cfg.period := by omega
  have hticks := (Nat.le_div_iff_mul_le hp).1 hcells
  have hpos : 0 < (s.lineOf s.showNo).length := Nat.lt_of_lt_of_le (Nat.mul_pos hL hp) hticks
  refine h.driveTick hx rfl rfl rfl rfl ?_ (iff_of_true (.inl rfl) (by omega))
  exact hprogress.driveTick hp rfl rfl rfl rfl rfl (by rw [State.raiseDone_dmaPtr]; omega) (hccr hpos)

/-- The tick that opens a cell of the buffer: the beat reads the cell's byte. -/
theorem LineOK.beat {s : State} (hb : BlockOK s) (h : LineOK s) (ht : s.timEn = true) (hc : s.cnt = 0) (hn : 0 < s.dmaCnt)
    (hlt : s.dmaPtr < bufLen s.cfg) : LineOK (Machine.driveTick (s.copyByte (s.readByte s.dmaPtr))) := by
  have hp := hb.period_pos
  have hx := hb.sending ht
  obtain ⟨-, hdone, hdriver⟩ := hb.running ht
  have hclear : s.done = false := Bool.eq_false_iff.2 fun hset => hn.ne' (hdone hset)
  have hstate : s.txState ≠ .draining .returnToIdle := by
    obtain ⟨hx, -⟩ | ⟨hx, -⟩ | ⟨hx, -⟩ | ⟨hx, -⟩ := hdriver <;> simp [hx]
  obtain ⟨-, -, -, hprogress, -⟩ := (lineOK_iff_of_sending hx).1 h
  have hkeep := hprogress
  obtain ⟨-, hcnt, hptr, -⟩ := hkeep
  rw [cellsOpened_of_mod_eq_zero hp (hcnt.symm.trans hc)] at hptr
  have hcells : (s.lineOf s.showNo).length / s.cfg.period < bufLen s.cfg := by omega
  have hticks := (Nat.div_lt_iff_lt_mul hp).1 hcells
  refine h.driveTick hx rfl rfl rfl rfl ?_ (iff_of_false ?_ (by omega))
  · exact hprogress.driveTick hp rfl rfl rfl rfl rfl (by rw [State.copyByte_dmaPtr]; omega) rfl
  · simp [hclear, hstate]

/-- After a reset there is no show. -/
theorem lineOK_resetWith (p : Params) (resets : Nat) (program : List CmdWord) (sched : List Move) (moveNo : Nat)
    (outside : List Host.Cell) : LineOK (State.resetWith p resets program sched moveNo outside) :=
  (lineOK_iff_of_idle rfl).2 ⟨nofun, fun _ h1 h2 => absurd (Nat.le_trans h1 h2) (Nat.not_succ_le_zero 0)⟩

theorem LineOK.moveMade {s : State} {m : Move} {t : State} (hb : BlockOK s) (h : LineOK s) (hm : MoveMade s m t) :
    LineOK t := by
  cases hm with
  | present => unfold State.present; split <;> exact h
  | noWord | tickOff | illegal | rangeError | packed => exact h
  | writes w i cs hx hw hd hi hcs =>
    exact (lineOK_iff_of_idle (s := (s.takeHeld.afterWrites cs).respond statusOk 0) hx).2 ((lineOK_iff_of_idle hx).1 h)
  | beginShow w hx => exact LineOK.beginShow (s := s.takeHeld) h hx
  | arm w hx => exact h.armStep hb hx
  | startDraining hx =>
    obtain ⟨htags, hdone, hshow, hprogress, hflag⟩ := (lineOK_iff_of_sending (.inl hx)).1 h
    exact (lineOK_iff_of_sending (.inr ⟨.poll, rfl⟩)).2
      ⟨htags, hdone, hshow, hprogress, doneFlag_congr (by simp [hx]) nofun hflag⟩
  | drain w hx => exact h.drainStep hb hx
  | drive ht hc => exact h.drive hb ht hc
  | raiseDone ht hc hd hn => exact h.raiseDone hb ht hc hn
  | beat ht hc hd hn hp => exact h.beat hb ht hc hn hp
  | reset => exact lineOK_resetWith _ _ _ _ _ _

/-- Settles O44: only a tick records a level, and it has read the byte of its cell; only the acceptance of a SHOW begins a
line, and the return ends one that is past its frame. -/
theorem everyStepKeepsTheLine : Obligations.EveryStepKeepsTheLine :=
  fun _ _ hb h hs => h.advance.moveMade hb.advance (moveMade_of_step hs).2

end Sys2Proof.Machine
end

section
/-! The colour operations: round trip, overwriting, writes beyond the LED region, and the frame of the family. -/

namespace Sys2Proof.Machine

/-- Settles O15: the bytes of the slice are the timing classes of the colour's bits, which `dec` inverts. -/
theorem setColorRoundTrip : Obligations.SetColorRoundTrip := by
  intro s index r g b hp hindex
  obtain ⟨t, hexec, hstate, hslots, hother, -⟩ := setColourAt_sliceWritten r g b hindex
  have hcfg : t.cfg = s.cfg := by rw [hstate]
  refine ⟨t, hexec, fun c k hc hk => ?_, ?_, hother⟩
  · rw [hslots c k hc hk]
    exact decodeClass_timingClass (paramsOK_low_ne_high hp) _
  · refine State.ledColour_of_slots (by rwa [hcfg]) fun c k hc hk => ?_
    rw [hslots c k hc hk, hcfg]
    rfl

/-! ## Overwriting -/

/-- A second row of writes that names every address of the first leaves the second only, as equal data. -/
theorem Memory.storeAll_storeAll {p : Params} {m cs ds : List Host.Cell} (hm : Memory.wf p m)
    (hcs : ∀ c ∈ cs, c.1 < bufLen p) (hds : ∀ d ∈ ds, d.1 < bufLen p) (hcover : ∀ c ∈ cs, ∃ d ∈ ds, d.1 = c.1)
    (hvalue : ∀ d ∈ ds, ∀ d' ∈ ds, d.1 = d'.1 → d.2 = d'.2) :
    Memory.storeAll p (Memory.storeAll p m cs) ds = Memory.storeAll p m ds := by
  refine Memory.ext_of_view (Memory.storeAll_wf _ (Memory.storeAll_wf _ hm hcs) hds) (Memory.storeAll_wf _ hm hds)
    fun a => ?_
  by_cases ha : ∃ d ∈ ds, d.1 = a
  · -- both hold the second row's value
    obtain ⟨d, hd, rfl⟩ := ha
    have hv : ∀ d' ∈ ds, d'.1 = d.1 → d'.2 = d.2 := fun d' hd' he => hvalue d' hd' d hd he
    rw [Memory.view_storeAll_of_mem p ds _ d.1 d.2 ⟨d, hd, rfl⟩ hv,
      Memory.view_storeAll_of_mem p ds _ d.1 d.2 ⟨d, hd, rfl⟩ hv]
  · -- neither row names the address
    have hds' : ∀ d ∈ ds, d.1 ≠ a := fun d hd he => ha ⟨d, hd, he⟩
    have hcs' : ∀ c ∈ cs, c.1 ≠ a := fun c hc he => by
      obtain ⟨d, hd, hdc⟩ := hcover c hc
      exact hds' d hd (hdc.trans he)
    rw [Memory.view_storeAll_of_not_mem p ds _ a hds', Memory.view_storeAll_of_not_mem p cs _ a hcs',
      Memory.view_storeAll_of_not_mem p ds _ a hds']

/-- Two writes of one slice at the same address have the same value. -/
theorem sliceCells_value {p : Params} {i : Nat} {r g b : Byte} {x y : Host.Cell} (hx : x ∈ sliceCells p i r g b)
    (hy : y ∈ sliceCells p i r g b) (h : x.1 = y.1) : x.2 = y.2 := by
  obtain ⟨c, k, hc, hk, rfl⟩ := mem_sliceCells.1 hx
  obtain ⟨c', k', hc', hk', rfl⟩ := mem_sliceCells.1 hy
  obtain ⟨-, rfl, rfl⟩ := slot_inj hc hk hc' hk' h
  rfl

/-- The addresses of a slice do not depend on the colour. -/
theorem sliceCells_cover {p : Params} {i : Nat} {r g b : Byte} (r' g' b' : Byte) {x : Host.Cell}
    (hx : x ∈ sliceCells p i r g b) : ∃ y ∈ sliceCells p i r' g' b', y.1 = x.1 := by
  obtain ⟨c, k, hc, hk, rfl⟩ := mem_sliceCells.1 hx
  exact ⟨_, mem_sliceCells.2 ⟨c, k, hc, hk, rfl⟩, rfl⟩

/-- Settles O20: both rows of writes name the slots of one LED, so the second overwrites the first. -/
theorem secondColourOverwritesTheFirst : Obligations.SecondColourOverwritesTheFirst := by
  intro s index r g b r' g' b' _ hwf hindex
  have hin : ∀ r g b, ∀ x ∈ sliceCells s.cfg index.toNat r g b, x.1 < bufLen s.cfg := fun r g b x hx =>
    Nat.lt_of_lt_of_le (sliceCells_addr hx).2 (slice_le_bufLen hindex)
  refine ⟨_, setColourAt_of_lt hindex, ?_⟩
  show andThen (setColourAt index r g b s) (setColourAt index r' g' b') = _
  rw [setColourAt_of_lt hindex, andThen_next, setColourAt_of_lt (by exact hindex)]
  simp only [State.respond_cfg, State.withMem_cfg, State.respond_mem, State.withMem_mem]
  rw [Memory.storeAll_storeAll hwf (hin r g b) (hin r' g' b') (fun c hc => sliceCells_cover r' g' b' hc)
    fun d hd d' hd' he => sliceCells_value hd hd' he]
  simp only [State.respond, State.withMem, List.append_assoc]
  rfl

/-! ## Writes beyond the LED region (60_exceptions.md R163) -/

/-- The writes of a slice go to 24 addresses in a row. -/
theorem sliceCells_map_fst (p : Params) (i : Nat) (r g b : Byte) :
    (sliceCells p i r g b).map (fun c => c.1) = List.range' (i * 24) 24 := rfl

/-- How many of `n` addresses from `a` on lie at or above `b`. -/
theorem countP_le_range' (a n b : Nat) : (List.range' a n).countP (fun x => decide (b ≤ x)) = a + n - max a b := by
  induction n generalizing a with
  | zero => simp
  | succ n ih =>
    rw [List.range'_succ, List.countP_cons, ih]
    by_cases h : b ≤ a
    · simp only [h, decide_true, if_true]
      omega
    · simp only [h, decide_false, Bool.false_eq_true, if_false]
      omega

theorem length_cellsOutside_sliceCells (p : Params) (i : Nat) (r g b : Byte) :
    (cellsOutside p (sliceCells p i r g b)).length = i * 24 + 24 - max (i * 24) (bufLen p) :=
  calc (cellsOutside p (sliceCells p i r g b)).length
      = (sliceCells p i r g b).countP (fun c => decide (bufLen p ≤ c.1)) := List.countP_eq_length_filter.symm
    _ = ((sliceCells p i r g b).map (fun c => c.1)).countP (fun a => decide (bufLen p ≤ a)) := by
        rw [List.countP_map]
        rfl
    _ = i * 24 + 24 - max (i * 24) (bufLen p) := by rw [sliceCells_map_fst, countP_le_range']

/-- A slice that reaches beyond the buffer, none of whose writes stops the machine. -/
theorem sliceWrittenPastEnd_afterWrites (s : State) (i : Nat) (r g b : Byte) :
    SliceWrittenPastEnd s ((s.afterWrites (sliceCells s.cfg i r g b)).respond statusOk 0) i r g b := by
  refine ⟨rfl, fun c k hc hk hlt => ?_, fun a ha => ?_, fun hwf => State.afterWrites_wf _ hwf⟩
  · refine State.readByte_afterWrites_of_mem s ⟨_, mem_sliceCells.2 ⟨c, k, hc, hk, rfl⟩, rfl⟩ hlt fun x hx he => ?_
    exact sliceCells_value hx (mem_sliceCells.2 ⟨c, k, hc, hk, rfl⟩) he
  · refine State.readByte_afterWrites_of_not_mem s fun x hx hlt he => ha ?_
    obtain ⟨h1, h2⟩ := sliceCells_addr hx
    exact he ▸ ⟨h1, h2, hlt⟩

/-- Both colour operations have the effect of `setColourAt`. -/
theorem exec_eq_setColourAt {i : Instr} {index : LedIndex} {r g b : Byte}
    (h : i = .setColor index r g b ∨ i = .setColorPacked index (r ++ g ++ b)) : exec i = setColourAt index r g b := by
  obtain rfl | rfl := h
  · rfl
  · exact exec_setColorPacked_packColour index r g b

/-- Settles O17: inside the buffer the slice is written; beyond it the free values of the writes decide. -/
theorem uncheckedIndexWritesBeyondTheLedRegion : Obligations.UncheckedIndexWritesBeyondTheLedRegion := by
  intro s i index r g b hpol _ hi
  rw [exec_eq_setColourAt hi, setColourAt_of_unchecked hpol]
  have hlen := length_cellsOutside_sliceCells s.cfg index.toNat r g b
  split
  case isTrue hin =>
    have hnone : (cellsOutside s.cfg (sliceCells s.cfg index.toNat r g b)).length = 0 := by omega
    rw [hnone, State.afterWrites_of_forall fun x hx => Nat.lt_of_lt_of_le (sliceCells_addr hx).2 hin]
    exact ⟨_, rfl, sliceWritten_storeAll r g b hin⟩
  case isFalse =>
    refine ⟨hlen, ?_⟩
    cases hstop : s.stopsWithin (cellsOutside s.cfg (sliceCells s.cfg index.toNat r g b)).length with
    | true => exact .inl ⟨State.stopsWithin_eq_true.1 hstop, rfl⟩
    | false =>
      refine .inr ⟨fun j hj => Bool.eq_false_iff.2 fun h => ?_, _, rfl, sliceWrittenPastEnd_afterWrites s _ r g b⟩
      exact Bool.false_ne_true (hstop.symm.trans (State.stopsWithin_eq_true.2 ⟨j, hj, h⟩))

/-! ## The frame of the encoder's operations (40_encoder.md R90) -/

/-- The response of a range error is none that `OK` begins. -/
theorem responseWord_ok_ne_range (p : Packed) : responseWord statusOk p ≠ 0x2000000#28 := by
  intro h
  have hnum := congrArg BitVec.toNat h
  have hp := p.isLt
  rw [responseWord, toNat_append_eq] at hnum
  simp only [statusOk, BitVec.toNat_ofNat] at hnum
  omega

theorem append_responseWord_ok_ne_range (l : List RespWord) (p : Packed) :
    l ++ [responseWord statusOk p] ≠ l ++ [0x2000000#28] := by
  simpa using responseWord_ok_ne_range p

theorem cellsOutside_eq_nil_of_ledEnd {p : Params} {cs : List Host.Cell} (h : ∀ c ∈ cs, c.1 < ledEnd p) :
    cellsOutside p cs = [] := by
  simp only [cellsOutside, List.filter_eq_nil_iff, decide_eq_true_eq, Nat.not_le]
  exact fun c hc => Nat.lt_of_lt_of_le (h c hc) (Nat.le_add_right _ _)

/-- Settles O22: writes answered `OK`, a range error, or a packed colour. -/
theorem encoderOperationsLeaveTheRestAlone : Obligations.EncoderOperationsLeaveTheRestAlone := by
  intro i s t hi h
  obtain ⟨cs, hcs, rfl⟩ | rfl | ⟨p, rfl⟩ | ⟨rfl, -⟩ := exec_next h
  · -- writes
    refine ⟨rfl, ⟨_, rfl⟩, fun hr => absurd hr (append_responseWord_ok_ne_range _ _), fun _ => rfl, fun hpol => ?_,
      _, rfl, fun c hc => (mem_cellsOutside.1 hc).2⟩
    simp [cellsOutside_eq_nil_of_ledEnd (hcs hpol)]
  · -- a range error
    exact ⟨rfl, ⟨_, rfl⟩, fun _ => ⟨rfl, rfl, rfl⟩, fun hr => absurd rfl hr, fun _ => rfl, [], by simp, nofun⟩
  · -- a packed colour
    exact ⟨rfl, ⟨_, rfl⟩, fun hr => absurd hr (append_responseWord_ok_ne_range _ _), fun _ => rfl, fun _ => rfl, [],
      by simp, nofun⟩
  · exact absurd rfl hi

end Sys2Proof.Machine
end

section
/-! What a step can change: the fault flags, the responses, the port, the buffer, the driver's state and the pin. Each claim
goes through the kinds of move once. -/

namespace Sys2Proof.Machine

/-- Settles O26: of the moves only the two faults of an accepted word, and reset, touch `ERR`. -/
theorem faultFlagsAreSticky : Obligations.FaultFlagsAreSticky := by
  intro s t h
  obtain ⟨-, hm⟩ := moveMade_of_step h
  generalize s.nextMove = m at hm
  refine ⟨fun hreset => ?_, fun hreset => ?_⟩
  · subst hreset
    cases hm
    rfl
  · cases hm with
    | illegal w e hx hw hd =>
      refine .inr ⟨w, rfl, by simpa using hx, by simpa using hw, .inl ⟨⟨e, hd⟩, ?_⟩⟩
      simp [CommandFault.flag]
    | rangeError w i index hx hw hd hi hn hp =>
      obtain ⟨r, g, b, p, hi⟩ := hi
      refine .inr ⟨w, rfl, by simpa using hx, by simpa using hw, .inr ⟨index, r, g, b, p, ?_, by simpa using hn,
        by simpa using hp, ?_⟩⟩
      · exact hi.imp (fun he => by rw [hd, he]) (fun he => by rw [hd, he])
      · simp [CommandFault.flag]
    | reset => exact absurd rfl hreset
    | _ => exact .inl (by simp)

/-- The driver answers at its return only. -/
theorem drainStep_responses (w : DrainWrite) (s : State) :
    (w ≠ .returnToIdle ∧ (drainStep w s).responses = s.responses)
      ∨ w = .returnToIdle ∧ (drainStep w s).txState = .idle
        ∧ (drainStep w s).responses = s.responses ++ [0x0000000#28] := by
  cases w with
  | returnToIdle => exact .inr ⟨rfl, rfl, rfl⟩
  | poll =>
    refine .inl ⟨nofun, ?_⟩
    simp only [drainStep, pollStep]
    split <;> rfl
  | disableDma | disableTimer | clearDone => exact .inl ⟨nofun, rfl⟩

/-- Settles O27: only the acceptance of a word and the return of a show respond, each once. -/
theorem responsesAreThoseOfTheSpec : Obligations.ResponsesAreThoseOfTheSpec := by
  intro s t h hreset
  obtain ⟨-, hm⟩ := moveMade_of_step h
  generalize s.nextMove = m at hm hreset
  rw [← State.advance_responses s]
  cases hm with
  | illegal w e hx hw hd => exact .inr ⟨0x1#4, 0, rfl, .inr ⟨.inl rfl, rfl⟩, fun h0 => absurd rfl h0⟩
  | writes w i cs hx hw hd hi hcs => exact .inr ⟨0x0#4, 0, rfl, .inl rfl, fun h0 => absurd rfl h0⟩
  | rangeError w i index hx hw hd hi hn hp =>
    exact .inr ⟨0x2#4, 0, rfl, .inr ⟨.inr rfl, rfl⟩, fun h0 => absurd rfl h0⟩
  | packed w r g b hx hw hd =>
    exact .inr ⟨0x0#4, r ++ g ++ b, rfl, .inl rfl, fun _ => ⟨w, r, g, b, by simpa using hw, hd, rfl⟩⟩
  | drain w hx =>
    obtain ⟨-, hsame⟩ | ⟨-, -, hanswer⟩ := drainStep_responses w s.advance
    · exact .inl hsame
    · exact .inr ⟨0x0#4, 0, hanswer, .inl rfl, fun h0 => absurd rfl h0⟩
  | reset => exact absurd rfl hreset
  | _ => exact .inl (by simp)

/-- While a word is held the host waits. -/
theorem State.present_of_held {s : State} {w : CmdWord} (h : s.held = some w) : s.present = s := by
  unfold State.present
  split
  · next hnone _ => cases hnone.symm.trans h
  · rfl

theorem State.present_of_no_program {s : State} (h : s.program = []) : s.present = s := by
  unfold State.present
  split
  · next hcons => cases hcons.symm.trans h
  · rfl

/-- With none held the host presents its next word. -/
theorem State.present_of_cons {s : State} {w : CmdWord} {ws : List CmdWord} (h : s.held = none)
    (hp : s.program = w :: ws) : s.present = { s with held := some w, program := ws } := by
  simp only [State.present, h, hp]

/-- Settles O28: outside `Idle` the block's move is the driver's; in `Idle` it accepts the word. -/
theorem portHoldsWhileBusy : Obligations.PortHoldsWhileBusy := by
  intro s t w h hw hreset
  obtain ⟨-, hm⟩ := moveMade_of_step h
  have hwait : s.advance.present = s.advance := State.present_of_held (w := w) (by simpa using hw)
  refine ⟨fun hbusy => ?_, fun hidle hblock => ?_, fun hidle hother => ?_⟩
  · -- a show is in progress
    have hx : s.advance.txState ≠ .idle := by simpa using hbusy
    generalize s.nextMove = m at hm hreset
    cases hm with
    | present => simp [hwait, hw]
    | noWord hi | illegal w e hi | writes w i cs hi | rangeError w i index hi | packed w r g b hi | beginShow w hi =>
      exact absurd hi hx
    | drain v hv =>
      have hresp := drainStep_responses v s.advance
      simp only [State.advance_responses] at hresp
      exact ⟨by simpa using hw, by simp, by simp, hresp.imp And.right And.right⟩
    | arm | startDraining | tickOff | drive | raiseDone | beat => simp [hw]
    | reset => exact absurd rfl hreset
  · -- the word is accepted
    have hx : s.advance.txState = .idle := by simpa using hidle
    rw [hblock] at hm
    cases hm with
    | noWord hi hnone => exact absurd (hnone.symm.trans (State.advance_held s)) (by simp [hw])
    | illegal | writes | rangeError | packed | beginShow => simp
    | arm v hv => exact absurd (hv.symm.trans hx) nofun
    | startDraining hv => exact absurd (hv.symm.trans hx) nofun
    | drain v hv => exact absurd (hv.symm.trans hx) nofun
  · -- another agent moves
    generalize s.nextMove = m at hm hreset hother
    cases hm with
    | present => simp [hwait, hw]
    | tickOff | drive | raiseDone | beat => simp [hw]
    | reset => exact absurd rfl hreset
    | _ => exact absurd rfl hother

/-- Settles O30: of the moves only the writes of an accepted operation and reset change the listed bytes. -/
theorem bufferChangesOnlyInIdle : Obligations.BufferChangesOnlyInIdle := by
  intro s t h hreset
  obtain ⟨-, hm⟩ := moveMade_of_step h
  have hcases : (t.mem = s.mem ∧ t.resets = s.resets ∧ t.cfg = s.cfg)
      ∨ s.nextMove = .block ∧ s.txState = .idle
        ∧ ∃ w i, s.held = some w ∧ decode w = .ok i ∧ i ≠ .showFrame ∧ ∀ r g b, i ≠ .pack r g b := by
    generalize s.nextMove = m at hm hreset
    cases hm with
    | writes w i cs hx hw hd hi hcs =>
      exact .inr ⟨rfl, by simpa using hx, w, i, by simpa using hw, hd, hi⟩
    | reset => exact absurd rfl hreset
    | _ => exact .inl (by simp)
  obtain ⟨hmem, hresets, hcfg⟩ | ⟨hm, hx, hop⟩ := hcases
  · exact ⟨fun _ => ⟨hmem, congrFun (State.readByte_congr hcfg hmem hresets)⟩, fun hne => absurd hmem hne⟩
  · exact ⟨fun hbusy => absurd hx hbusy, fun _ => ⟨hm, hx, hop⟩⟩

/-- Settles O39: the acceptance of a SHOW and the driver's own steps move `TX_STATE`. -/
theorem driverMovesOnlyAlongItsCycle : Obligations.DriverMovesOnlyAlongItsCycle := by
  intro s t h hreset
  obtain ⟨-, hm⟩ := moveMade_of_step h
  generalize s.nextMove = m at hm hreset
  cases hm with
  | beginShow w hx hw hd => exact .inr ⟨rfl, .inl ⟨by simpa using hx, rfl, w, by simpa using hw, hd⟩⟩
  | arm w hx =>
    rw [State.advance_txState] at hx
    cases w with
    | enableTimer => exact .inr ⟨rfl, .inr (.inl ⟨hx, rfl, rfl⟩)⟩
    | resetCounter | setSource | setLength | enableDma => exact .inl (by rw [hx]; rfl)
  | startDraining hx => exact .inr ⟨rfl, .inr (.inr (.inl ⟨by simpa using hx, rfl⟩))⟩
  | drain w hx =>
    rw [State.advance_txState] at hx
    cases w with
    | returnToIdle => exact .inr ⟨rfl, .inr (.inr (.inr ⟨hx, rfl, congrArg (· ++ [0x0000000#28]) (State.advance_responses s)⟩))⟩
    | poll =>
      refine .inl ?_
      simp only [drainStep, pollStep]
      split
      · rw [hx]; rfl
      · simp
    | disableDma | disableTimer | clearDone => exact .inl (by rw [hx]; rfl)
  | reset => exact absurd rfl hreset
  | _ => exact .inl (by simp)

/-- Only completion write 2 of the driver's writes in `Draining` touches the pin, and makes it low. -/
theorem drainStep_dout (w : DrainWrite) (s : State) :
    (drainStep w s).dout = s.dout ∨ w = .disableTimer ∧ (drainStep w s).dout = false := by
  cases w with
  | disableTimer => exact .inr ⟨rfl, rfl⟩
  | poll =>
    refine .inl ?_
    simp only [drainStep, pollStep]
    split <;> rfl
  | disableDma | clearDone | returnToIdle => exact .inl rfl

/-- Settles O40: the pin is driven by a tick with the timer enabled, and made low by completion write 2 and by reset. -/
theorem pinChangesOnlyInATickOrCompletion : Obligations.PinChangesOnlyInATickOrCompletion := by
  intro s t h hne
  obtain ⟨-, hm⟩ := moveMade_of_step h
  generalize s.nextMove = m at hm
  cases hm with
  | drain w hx =>
    obtain hsame | ⟨rfl, hlow⟩ := drainStep_dout w s.advance
    · exact absurd (hsame.trans (State.advance_dout s)) hne
    · exact .inr (.inl ⟨rfl, by simpa using hx, hlow⟩)
  | drive ht | raiseDone ht | beat ht => exact .inl ⟨rfl, by simpa using ht⟩
  | reset => exact .inr (.inr ⟨rfl, rfl⟩)
  | _ => exact absurd (by simp) hne

end Sys2Proof.Machine
end

section
/-! Single moves: the port, the driver's writes in order, reset. -/

namespace Sys2Proof.Machine

/-- Settles O23: the port accepts the word, and a legal word is executed. -/
theorem stepRunsTheAcceptedInstruction : Obligations.StepRunsTheAcceptedInstruction :=
  fun s _ _ hp hm hx hw hd => (step_eq_acceptWord hp hm hx hw).trans (acceptWord_of_decode_ok s.advance.takeHeld hd)

/-- Settles O24: the word of an instruction is 48 bits wide and decodes to it. -/
theorem placedInstructionRunsNext : Obligations.PlacedInstructionRunsNext := by
  intro s i hp
  have hword : BitVec.ofNat 48 ((encode i).toNat % 2 ^ 48) = encode i := by
    rw [Nat.mod_eq_of_lt (encode i).isLt, BitVec.ofNat_toNat, BitVec.setWidth_eq]
  refine (stepRunsTheAcceptedInstruction (s.withFetchWord 48 (encode i).toNat) (encode i) i hp rfl rfl
    (congrArg some hword) (decode_encode i)).trans ?_
  rfl

/-- Settles O29: the host's move, by what is held and what is left. -/
theorem hostPresentsOneWordAtATime : Obligations.HostPresentsOneWordAtATime := by
  intro s hp hm
  have hstep : step s = .next s.advance.present := by rw [step_eq_runMove hp, hm, runMove]
  refine ⟨fun w ws hnone hprogram => ?_, fun w hw => ?_, fun hprogram => ?_⟩
  · rw [hstep, State.present_of_cons (w := w) (ws := ws) (by simpa using hnone) (by simpa using hprogram)]
  · rw [hstep, State.present_of_held (w := w) (by simpa using hw)]
  · rw [hstep, State.present_of_no_program (by simpa using hprogram)]

/-- Settles O32: `paramsOK` is the conjunction of the constraints, and a step checks it first. -/
theorem parametersOutsideTheConstraintsAreRefused : Obligations.ParametersOutsideTheConstraintsAreRefused := by
  refine ⟨fun p => ?_, fun s h => by simp [step, runStep, h]⟩
  simp only [paramsOK, Bool.and_eq_true, decide_eq_true_eq, and_assoc]

/-- Settles O33: the acceptance's effect is `beginShow`, written out. -/
theorem showStartsArming : Obligations.ShowStartsArming := fun _ => rfl

theorem blockMove_of_arming {s : State} {w : ArmWrite} (h : s.txState = .arming w) : blockMove s = .next (armStep w s) := by
  simp only [blockMove, h]

theorem blockMove_of_draining {s : State} {w : DrainWrite} (h : s.txState = .draining w) :
    blockMove s = .next (drainStep w s) := by
  simp only [blockMove, h]

theorem blockMove_of_transmitting {s : State} (h : s.txState = .transmitting) :
    blockMove s = .next (startDraining s) := by
  simp only [blockMove, h]

/-- Settles O34: each position's write, and no tick acts while the timer is disabled. -/
theorem armingWritesInOrder : Obligations.ArmingWritesInOrder := by
  intro s1 hx s2 s3 s4 s5 s6
  refine ⟨blockMove_of_arming hx, blockMove_of_arming (s := s2) rfl, blockMove_of_arming (s := s3) rfl,
    blockMove_of_arming (s := s4) rfl, blockMove_of_arming (s := s5) rfl, fun ht => ?_⟩
  exact ⟨tick_of_disabled ht, tick_of_disabled ht, tick_of_disabled ht, tick_of_disabled ht, tick_of_disabled ht⟩

theorem pollStep_of_not_done {s : State} (h : s.done = false) : pollStep s = s := by
  simp [pollStep, h]

/-- Settles O35: the step to `Draining`, and the two outcomes of a poll. -/
theorem drainingPollsTheFlag : Obligations.DrainingPollsTheFlag := by
  refine ⟨fun _ => blockMove_of_transmitting, fun s hx => ⟨fun hd => ?_, fun hd => ?_⟩⟩
  · rw [blockMove_of_draining hx, drainStep, pollStep_of_not_done hd]
  · rw [blockMove_of_draining hx, drainStep, pollStep, if_pos hd]

/-- Settles O36: each position's write; the last is the return with the answer. -/
theorem completionWritesInOrder : Obligations.CompletionWritesInOrder := by
  intro s1 hx s2 s3 s4 s5
  exact ⟨blockMove_of_draining hx, blockMove_of_draining (s := s2) rfl, blockMove_of_draining (s := s3) rfl,
    blockMove_of_draining (s := s4) rfl⟩

/-- What an address of a block just reset reads as. -/
theorem State.readByte_resetBlock (s : State) (a : Nat) :
    s.resetBlock.readByte a = (Memory.unlisted s.cfg a).getD (Config.resetByte (s.resets + 1) a) := by
  rw [State.readByte_eq_view]
  rfl

/-- Settles O41: the fields of `resetBlock`; an unlisted address is free below `ledEnd` and zero from there on. -/
theorem resetEvent : Obligations.ResetEvent := by
  intro s hp hm
  have hstep : step s = .next s.advance.resetBlock := by rw [step_eq_runMove hp, hm, runMove]
  refine ⟨_, hstep, rfl, rfl, rfl, rfl, rfl, rfl, rfl, rfl, rfl, rfl, rfl, rfl, rfl, rfl, rfl, rfl, fun a hled _ => ?_,
    fun a hled => ?_, by simp, by simp, by simp, by simp⟩
  · rw [State.readByte_resetBlock, State.advance_cfg, Memory.unlisted, if_neg (Nat.not_lt.2 hled)]
    rfl
  · rw [State.readByte_resetBlock, State.advance_cfg, State.advance_resets, Memory.unlisted, if_pos hled]
    rfl

/-- Settles O45: the reset state has no byte listed, no show and no history. -/
theorem resetStateMeetsTheInvariants : Obligations.ResetStateMeetsTheInvariants := by
  refine ⟨fun s h => ?_, rfl, rfl⟩
  rw [AfterReset] at h
  have hclean : IdleClean s ∧ NoFault s := by
    rw [h]
    exact ⟨⟨rfl, rfl, rfl, rfl, rfl, rfl⟩, rfl⟩
  refine ⟨hclean.1, hclean.2, fun a hled _ => ?_, fun hp => ⟨?_, ?_, ?_⟩⟩
  · rw [h, State.readByte_eq_view]
    simp [State.resetWith, Memory.view, Memory.lookup, Memory.unlisted, Nat.not_lt.2 hled]
  · rw [h]
    exact blockOK_resetWith hp _ _ _ _ _
  · rw [h]
    exact streamOK_resetWith _ _ _ _ _ _
  · rw [h]
    exact lineOK_resetWith _ _ _ _ _ _

end Sys2Proof.Machine
end

section
/-! Where a step stops, and what an ended run does. -/

namespace Sys2Proof.Machine

/-- R59: while a byte is left the channel's position lies in the buffer, since its two counters cover the buffer. -/
theorem BlockOK.dmaPtr_lt {s : State} (h : BlockOK s) (ht : s.timEn = true) (hn : 0 < s.dmaCnt) :
    s.dmaPtr < bufLen s.cfg := by
  obtain ⟨hsum, -⟩ := h.running ht
  omega

/-- With a byte left and its address outside the buffer, the beat stops the machine. -/
theorem openCell_of_bufLen_le {s : State} (hd : s.dmaEn = true) (hn : 0 < s.dmaCnt) (hp : bufLen s.cfg ≤ s.dmaPtr) :
    openCell s = .fault .readOutsideBuffer := by
  simp [openCell, beat, State.memRead, hd, hn, Nat.not_lt.2 hp]

/-- Settles O38: the bound of the channel's position, and the read that has no byte. -/
theorem beatsReadInsideTheBuffer : Obligations.BeatsReadInsideTheBuffer := by
  refine ⟨fun s h ht _ hn => h.dmaPtr_lt ht hn, fun s ht hc hd hn hp => ?_⟩
  simp [tick, ht, hc, openCell_of_bufLen_le hd hn hp, andThen]

/-- A tick never stops: no beat reads outside the buffer. -/
theorem BlockOK.tick_next {s : State} (h : BlockOK s) : ∃ t, tick s = .next t := by
  cases ht : s.timEn with
  | false => exact ⟨_, tick_of_disabled ht⟩
  | true =>
    by_cases hc : s.cnt = 0
    · have hopen : ∃ t, openCell s = .next t := by
        cases hd : s.dmaEn with
        | false => exact ⟨_, openCell_of_disabled hd⟩
        | true =>
          obtain hn | hn := Nat.eq_zero_or_pos s.dmaCnt
          · exact ⟨_, openCell_of_dmaCnt_zero hd hn⟩
          · exact ⟨_, openCell_of_lt_bufLen hd hn (h.dmaPtr_lt ht hn)⟩
      obtain ⟨t, ho⟩ := hopen
      exact ⟨_, tick_of_openCell ht hc ho⟩
    · exact ⟨_, tick_of_cnt_ne_zero ht hc⟩

/-- A colour operation stops at a write outside the buffer only, which `unchecked` alone makes. -/
theorem setColourAt_next_or_fault (index : LedIndex) (r g b : Byte) (s : State) :
    (∃ t, setColourAt index r g b s = .next t)
      ∨ s.cfg.rangePolicy = .unchecked ∧ setColourAt index r g b s = .fault .writeOutsideBuffer := by
  cases hp : s.cfg.rangePolicy with
  | reject =>
    obtain hlt | hle := Nat.lt_or_ge index.toNat s.cfg.n
    · exact .inl ⟨_, setColourAt_of_lt hlt⟩
    · exact .inl ⟨_, setColourAt_of_reject hle hp⟩
  | unchecked =>
    rw [setColourAt_of_unchecked hp]
    split
    · exact .inr ⟨rfl, rfl⟩
    · exact .inl ⟨_, rfl⟩

theorem exec_next_or_fault (i : Instr) (s : State) :
    (∃ t, exec i s = .next t) ∨ s.cfg.rangePolicy = .unchecked ∧ exec i s = .fault .writeOutsideBuffer := by
  cases i with
  | setColor index r g b => exact setColourAt_next_or_fault index r g b s
  | setColorPacked index p => exact setColourAt_next_or_fault index (redOf p) (greenOf p) (blueOf p) s
  | clear => exact .inl ⟨_, execClear_eq s⟩
  | pack r g b => exact .inl ⟨_, rfl⟩
  | showFrame => exact .inl ⟨_, rfl⟩

theorem blockMove_next_or_fault (s : State) :
    (∃ t, blockMove s = .next t) ∨ s.txState = .idle ∧ s.cfg.rangePolicy = .unchecked
      ∧ blockMove s = .fault .writeOutsideBuffer := by
  cases hx : s.txState with
  | arming w => exact .inl ⟨_, blockMove_of_arming hx⟩
  | transmitting => exact .inl ⟨_, blockMove_of_transmitting hx⟩
  | draining w => exact .inl ⟨_, blockMove_of_draining hx⟩
  | idle =>
    cases hw : s.held with
    | none => exact .inl ⟨s, by simp only [blockMove, hx, hw]⟩
    | some w =>
      have haccept : blockMove s = acceptWord w s.takeHeld := by simp only [blockMove, hx, hw]
      rw [haccept]
      cases hd : decode w with
      | error e => exact .inl ⟨_, acceptWord_of_decode_error _ hd⟩
      | ok i =>
        rw [acceptWord_of_decode_ok _ hd]
        exact (exec_next_or_fault i s.takeHeld).imp_right fun ⟨hp, hf⟩ => ⟨rfl, hp, hf⟩

/-- From a state of the invariant a step stops only at a write outside the buffer, in `Idle` and under `unchecked`. -/
theorem BlockOK.step_next_or_fault {s : State} (h : BlockOK s) :
    (∃ t, step s = .next t) ∨ s.txState = .idle ∧ s.cfg.rangePolicy = .unchecked ∧ step s = .fault .writeOutsideBuffer := by
  rw [step_eq_runMove h.1]
  cases s.nextMove with
  | host => exact .inl ⟨_, rfl⟩
  | reset => exact .inl ⟨_, rfl⟩
  | tick => exact .inl h.advance.tick_next
  | block => simpa [runMove] using blockMove_next_or_fault s.advance

/-- Settles O46: the only stop is a write outside the buffer, which `reject` never makes. -/
theorem noStepStopsUnderReject : Obligations.NoStepStopsUnderReject := by
  refine ⟨fun s h hp => h.step_next_or_fault.resolve_right fun ⟨_, hu, _⟩ => ?_, fun s h => ?_⟩
  · cases hp.symm.trans hu
  · exact h.step_next_or_fault.imp_right fun ⟨_, _, hf⟩ => hf

/-- Settles O53: no word to present or accept, and the timer is off in `Idle`. -/
theorem endedRunStaysEnded : Obligations.EndedRunStaysEnded := by
  rintro s h ⟨hprogram, hx, hw⟩ hreset
  refine ⟨?_, by simpa using hprogram, by simpa using hx, by simpa using hw⟩
  rw [step_eq_runMove h.1]
  cases hm : s.nextMove with
  | host => rw [runMove, State.present_of_no_program (by simpa using hprogram)]
  | block => simp [runMove, blockMove, hx, hw]
  | tick => exact tick_of_disabled (by simpa using (h.idle hx).1)
  | reset => exact absurd hm hreset

/-- Settles O54: only a beat copies, with a byte left, and only the arming writes set the channel's counters. -/
theorem onePassPerShow : Obligations.OnePassPerShow := by
  intro s t _ hleft harming h hreset
  obtain ⟨-, hm⟩ := moveMade_of_step h
  generalize s.nextMove = m at hm hreset
  cases hm with
  | beat ht hc hd hn hp => exact absurd (by simpa using hleft) hn.ne'
  | arm w hx => exact absurd (by simpa using hx) (harming w)
  | reset => exact absurd rfl hreset
  | _ => simp [hleft]

end Sys2Proof.Machine
end

section
/-! What a show sends, read off the invariants (41_transmit.md R115 to R123, 42_waveform.md R137 to R143). -/

namespace Sys2Proof.Machine

/-! ## The frame and its levels -/

/-- Within the frame the level of a tick is that of its cell's byte. -/
theorem frameLevel_of_lt {s : State} {n : Nat} (hp : 0 < s.cfg.period) (h : n < bufLen s.cfg * s.cfg.period) :
    frameLevel s n = wave (s.readByte (n / s.cfg.period)) (n % s.cfg.period) := by
  have hcell := (Nat.div_lt_iff_lt_mul hp).2 h
  rw [frameLevel, Nat.min_eq_left (by omega)]

/-- From the gap's first cell on every level is low, since the gap region is zero. -/
theorem frameLevel_of_gap {s : State} {n : Nat} (hb : BlockOK s) (hpol : s.cfg.rangePolicy = .reject)
    (h : ledEnd s.cfg * s.cfg.period ≤ n) : frameLevel s n = false := by
  have hcell := (Nat.le_div_iff_mul_le hb.period_pos).2 h
  obtain ⟨hp, -, hgap, -⟩ := hb
  have hgapPos : ledEnd s.cfg < bufLen s.cfg := by
    simp only [paramsOK, Bool.and_eq_true, decide_eq_true_eq] at hp
    obtain ⟨⟨⟨⟨-, hg⟩, -⟩, -⟩, -⟩ := hp
    exact Nat.lt_add_of_pos_right hg
  have hzero : s.readByte (min (n / s.cfg.period) (bufLen s.cfg - 1)) = 0x00#8 :=
    hgap hpol _ (by omega) (by omega)
  rw [frameLevel, hzero]
  rfl

/-- Part of a row of values is the row of that part. -/
theorem take_drop_map_range {α : Type} (f : Nat → α) {a n len : Nat} (h : a + n ≤ len) :
    (((List.range len).map f).drop a).take n = (List.range n).map fun c => f (a + c) := by
  refine List.ext_getElem (by simp; omega) fun i h1 h2 => ?_
  simp

/-! ## A show at its end -/

/-- At its end a show has copied the whole buffer. -/
theorem streamOf_eq_frame {s : State} (hb : BlockOK s) (hs : StreamOK s) (hx : s.txState = .draining .returnToIdle) :
    s.streamOf s.showNo = s.frame := by
  obtain ⟨-, -, -, hstream⟩ := (streamOK_iff_of_sending (.inr ⟨_, hx⟩)).1 hs
  rw [hstream, hb.dmaPtr_eq_bufLen hx nofun, State.frame]

/-- At its end the line of a show is a row of levels longer than the frame. -/
theorem lineOf_of_return {s : State} (hl : LineOK s) (hx : s.txState = .draining .returnToIdle) :
    s.lineOf s.showNo = (List.range (s.lineOf s.showNo).length).map (frameLevel s)
      ∧ bufLen s.cfg * s.cfg.period < (s.lineOf s.showNo).length := by
  obtain ⟨-, -, -, ⟨hlevels, -⟩, hflag⟩ := (lineOK_iff_of_sending (.inr ⟨_, hx⟩)).1 hl
  exact ⟨hlevels, hflag.1 (.inr hx)⟩

/-- The line of a show at its end begins with the levels of the frame's cells. -/
theorem take_lineOf_of_return {s : State} (hb : BlockOK s) (hl : LineOK s) (hx : s.txState = .draining .returnToIdle) :
    (s.lineOf s.showNo).take (bufLen s.cfg * s.cfg.period)
      = (List.range (bufLen s.cfg * s.cfg.period)).map
          fun n => wave (s.readByte (n / s.cfg.period)) (n % s.cfg.period) := by
  obtain ⟨hlevels, hlong⟩ := lineOf_of_return hl hx
  have htake := take_drop_map_range (frameLevel s) (a := 0) ((Nat.zero_add _).trans_le hlong.le)
  rw [List.drop_zero, ← hlevels] at htake
  rw [htake]
  refine List.map_congr_left fun n hn => ?_
  rw [Nat.zero_add, frameLevel_of_lt hb.period_pos (List.mem_range.1 hn)]

/-- The block's move at the end of a show returns to `Idle`. -/
theorem step_of_return {s : State} (hb : BlockOK s) (hx : s.txState = .draining .returnToIdle) (hm : s.nextMove = .block) :
    step s = .next (driverReturn s.advance) := by
  rw [step_eq_runMove hb.1, hm]
  exact blockMove_of_draining (s := s.advance) (by simpa using hx)

/-- Settles O47: the return changes nothing that the invariants speak of at the end of the show. -/
theorem showAnsweredHasSentTheBuffer : Obligations.ShowAnsweredHasSentTheBuffer := by
  intro s hb hs hl hx hm
  have hx' : s.advance.txState = .draining .returnToIdle := by simpa using hx
  have hidle : BlockOK (driverReturn s.advance) := hb.advance.drainStep hx'
  obtain ⟨htim, hdma, hdone, hlow⟩ := hidle.idle rfl
  refine ⟨_, step_of_return hb hx hm, rfl, htim, hdma, hdone, hlow, ?_, ?_,
    (streamOf_eq_frame hb.advance hs.advance hx' :), (take_lineOf_of_return hb.advance hl.advance hx' :)⟩
  · exact congrArg (· ++ [0x0000000#28]) (State.advance_responses s)
  · have hread : (driverReturn s.advance).readByte = s.readByte := State.readByte_advance s
    simp [State.frame, hread]

/-- Settles O48: each stream is the frame of its state. -/
theorem equalBuffersGiveEqualStreams : Obligations.EqualBuffersGiveEqualStreams := by
  intro s s' hb hb' hs hs' hcfg hx hx' hread
  rw [streamOf_eq_frame hb hs hx, streamOf_eq_frame hb' hs' hx', State.frame, State.frame, ← hcfg]
  exact List.map_congr_left fun a ha => hread a (List.mem_range.1 ha)

/-- Settles O49: without LEDs the buffer is the gap. -/
theorem emptyStripSendsOnlyTheGap : Obligations.EmptyStripSendsOnlyTheGap := by
  intro s hb hs hl hpol hn hx
  have hled : ledEnd s.cfg = 0 := by rw [ledEnd, hn, Nat.zero_mul]
  have hlen : bufLen s.cfg = s.cfg.gap := by rw [bufLen, hled, Nat.zero_add]
  obtain ⟨hlevels, hlong⟩ := lineOf_of_return hl hx
  refine ⟨?_, hlen ▸ hlong, fun level hmem => ?_⟩
  · rw [streamOf_eq_frame hb hs hx, State.frame, hlen]
    refine List.eq_replicate_iff.2 ⟨by simp, fun v hv => ?_⟩
    obtain ⟨a, ha, rfl⟩ := List.mem_map.1 hv
    obtain ⟨-, -, hgap, -⟩ := hb
    exact hgap hpol a (by omega) (hlen ▸ List.mem_range.1 ha)
  · rw [hlevels] at hmem
    obtain ⟨n, -, rfl⟩ := List.mem_map.1 hmem
    exact frameLevel_of_gap hb hpol (by rw [hled, Nat.zero_mul]; exact Nat.zero_le n)

/-- A cell of a finished frame on the line. -/
theorem cell_of_return {s : State} (hb : BlockOK s) (hl : LineOK s) (hx : s.txState = .draining .returnToIdle) {k : Nat}
    (hk : k < bufLen s.cfg) :
    ((s.lineOf s.showNo).drop (k * s.cfg.period)).take s.cfg.period
      = (List.range s.cfg.period).map (wave (s.readByte k)) := by
  obtain ⟨hlevels, hlong⟩ := lineOf_of_return hl hx
  have hin : k * s.cfg.period + s.cfg.period ≤ bufLen s.cfg * s.cfg.period := by
    rw [← Nat.succ_mul]
    exact Nat.mul_le_mul_right _ hk
  rw [hlevels, take_drop_map_range _ (hin.trans hlong.le)]
  refine List.map_congr_left fun c hc => ?_
  have hc := List.mem_range.1 hc
  rw [frameLevel_of_lt hb.period_pos (by omega), Nat.mul_comm k, Nat.mul_add_div hb.period_pos, Nat.div_eq_of_lt hc,
    Nat.add_zero, Nat.mul_add_mod, Nat.mod_eq_of_lt hc]

theorem highTicks_of_return {s : State} (hb : BlockOK s) (hl : LineOK s) (hx : s.txState = .draining .returnToIdle)
    {k : Nat} (hk : k < bufLen s.cfg) (hv : (s.readByte k).toNat < s.cfg.period) :
    highTicks s.cfg.period k (s.lineOf s.showNo) = (s.readByte k).toNat := by
  rw [highTicks, cell_of_return hb hl hx hk, map_wave_range_of_le hv.le]
  simp [List.count_append, List.count_replicate]

/-- Settles O58: a cell is high for as many ticks as its byte says, and `LOW` and `HIGH` are below `PERIOD`. -/
theorem frameIsReadBackFromTheLine : Obligations.FrameIsReadBackFromTheLine := by
  intro s hb hl hx
  refine ⟨fun k hk hv => highTicks_of_return hb hl hx hk hv, fun hall i hi => List.map_congr_left fun j hj => ?_⟩
  obtain ⟨-, hlt, hper⟩ := paramsOK_pulses hb.1
  have hj := List.mem_range.1 hj
  have hled : i * 24 + j < ledEnd s.cfg := by
    unfold ledEnd
    omega
  have hv : (s.readByte (i * 24 + j)).toNat < s.cfg.period := by
    obtain hv | hv := hall _ hled <;> rw [hv]
    · exact hper
    · exact hlt.trans hper
  rw [highTicks_of_return hb hl hx (Nat.lt_of_lt_of_le hled (Nat.le_add_right _ _)) hv, BitVec.ofNat_toNat,
    BitVec.setWidth_eq]

/-! ## While the timer runs -/

/-- R112: while the timer runs the completion flag says whether the frame's ticks have passed. -/
theorem done_iff_of_timEn {s : State} (hb : BlockOK s) (hl : LineOK s) (ht : s.timEn = true) :
    s.done = true ↔ bufLen s.cfg * s.cfg.period < (s.lineOf s.showNo).length := by
  obtain ⟨-, -, hdriver⟩ := hb.running ht
  obtain ⟨-, -, -, -, hflag⟩ := (lineOK_iff_of_sending (hb.sending ht)).1 hl
  have hne : s.txState ≠ .draining .returnToIdle := by
    obtain ⟨hx, -⟩ | ⟨hx, -⟩ | ⟨hx, -⟩ | ⟨hx, -⟩ := hdriver <;> simp [hx]
  simpa [hne] using hflag

/-- With the timer enabled a tick records the level it drives, and keeps the timer enabled. -/
theorem tick_records {s t : State} (ht : s.timEn = true) (h : tick s = .next t) :
    t.line = s.line ++ [(s.showNo, t.dout)] ∧ t.showNo = s.showNo ∧ t.timEn = true := by
  obtain ⟨hoff, -⟩ | ⟨-, -, rfl⟩ | ⟨-, -, -, -, rfl⟩ | ⟨-, -, -, -, -, rfl⟩ := tick_next h
  · exact absurd (hoff.symm.trans ht) Bool.false_ne_true
  all_goals exact ⟨rfl, rfl, ht⟩

theorem length_lineOf_tick {s t : State} (ht : s.timEn = true) (h : tick s = .next t) :
    (t.lineOf t.showNo).length = (s.lineOf s.showNo).length + 1 := by
  obtain ⟨hline, hshow, -⟩ := tick_records ht h
  rw [State.lineOf, hline, history_append, hshow]
  simp [State.lineOf]

/-- Settles O55: the flag's meaning before and after the tick, which adds one level. -/
theorem doneRisesAfterTheLastCell : Obligations.DoneRisesAfterTheLastCell := by
  intro s t hb hl ht hd h
  obtain ⟨-, -, ht'⟩ := tick_records ht h
  have hm := moveMade_of_tick h
  have hbefore := done_iff_of_timEn hb hl ht
  have hafter := done_iff_of_timEn (hb.moveMade hm) (hl.moveMade hb hm) ht'
  rw [length_lineOf_tick ht h, tick_cfg h] at hafter
  rw [hd] at hbefore
  simp only [Bool.false_eq_true, false_iff] at hbefore
  rw [hafter]
  omega

/-- While the timer runs the pin has the level of the last tick. -/
theorem dout_of_timEn {s : State} (hb : BlockOK s) (hl : LineOK s) (ht : s.timEn = true)
    (hn : 0 < (s.lineOf s.showNo).length) : s.dout = frameLevel s ((s.lineOf s.showNo).length - 1) := by
  obtain ⟨-, -, -, -, hdout⟩ := lineProgress_of_timEn hb hl ht
  rw [hdout ht, decide_eq_true hn, Bool.true_and]

/-- With the flag set and the timer off, the driver has made the pin low. -/
theorem BlockOK.dout_of_done {s : State} (h : BlockOK s) (ht : s.timEn = false) (hd : s.done = true) : s.dout = false := by
  obtain ⟨-, -, -, -, -, -, hdriver⟩ := h
  unfold DriverOK at hdriver
  cases hx : s.txState with
  | idle => simp_all
  | arming w => simp_all
  | transmitting => simp_all
  | draining w =>
    rw [hx] at hdriver
    cases w <;> simp_all

/-- Settles O56: the frame is over, so the level is that of the gap; with no byte left there is no beat. -/
theorem lateDriverLeavesTheLineLow : Obligations.LateDriverLeavesTheLineLow := by
  intro s t hb hl hpol hd h
  have hm := moveMade_of_tick h
  cases ht : s.timEn with
  | false =>
    obtain rfl := Host.Outcome.next.inj ((tick_of_disabled ht).symm.trans h)
    exact ⟨hb.dout_of_done ht hd, rfl, hd⟩
  | true =>
    obtain ⟨-, hleft, -⟩ := hb.running ht
    obtain ⟨-, -, ht'⟩ := tick_records ht h
    have hlen := length_lineOf_tick ht h
    have hcfg := tick_cfg h
    refine ⟨?_, ?_⟩
    · have hlate := (done_iff_of_timEn hb hl ht).1 hd
      have hled : ledEnd s.cfg * s.cfg.period ≤ bufLen s.cfg * s.cfg.period :=
        Nat.mul_le_mul_right _ (Nat.le_add_right _ _)
      rw [dout_of_timEn (hb.moveMade hm) (hl.moveMade hb hm) ht' (by omega)]
      exact frameLevel_of_gap (hb.moveMade hm) (hcfg ▸ hpol) (by rw [hcfg]; omega)
    · obtain ⟨-, rfl⟩ | ⟨-, -, rfl⟩ | ⟨-, -, -, -, rfl⟩ | ⟨-, -, -, hn, -⟩ := tick_next h
      · exact ⟨rfl, hd⟩
      · exact ⟨rfl, hd⟩
      · exact ⟨rfl, rfl⟩
      · exact absurd (hleft hd) hn.ne'

/-- From the end of its pulse on, the last data cell is low. -/
theorem frameLevel_of_last_cell {s : State} {n : Nat} (hp : 0 < s.cfg.period) (hn : 1 ≤ s.cfg.n)
    (hlow : (ledEnd s.cfg - 1) * s.cfg.period + (s.readByte (ledEnd s.cfg - 1)).toNat ≤ n)
    (hlt : n < ledEnd s.cfg * s.cfg.period) : frameLevel s n = false := by
  have hled : 0 < ledEnd s.cfg := Nat.mul_pos hn (by decide)
  have hcell : n / s.cfg.period = ledEnd s.cfg - 1 :=
    Nat.div_eq_of_lt_le (by omega) (by rwa [Nat.sub_add_cancel hled])
  have hframe : n < bufLen s.cfg * s.cfg.period :=
    Nat.lt_of_lt_of_le hlt (Nat.mul_le_mul_right _ (Nat.le_add_right _ _))
  have hsplit := Nat.div_add_mod n s.cfg.period
  rw [hcell, Nat.mul_comm] at hsplit
  rw [frameLevel_of_lt hp hframe, hcell]
  exact decide_eq_false (by omega)

/-- Settles O57: past the data cells the level is the gap's, and in the last data cell it is low after its pulse. -/
theorem gapIsLowOnTheLine : Obligations.GapIsLowOnTheLine := by
  intro s hb hl hpol ht
  obtain ⟨hlevels, -⟩ := lineProgress_of_timEn hb hl ht
  have hlevel : ∀ n, n < (s.lineOf s.showNo).length → (s.lineOf s.showNo)[n]? = some (frameLevel s n) := by
    intro n hn
    rw [hlevels]
    simp [hn]
  refine ⟨fun n hgap hn => ?_, fun hleds n hlow hn => ?_⟩
  · rw [hlevel n hn, frameLevel_of_gap hb hpol hgap]
  · rw [hlevel n hn]
    obtain hlt | hle := Nat.lt_or_ge n (ledEnd s.cfg * s.cfg.period)
    · rw [frameLevel_of_last_cell hb.period_pos hleds hlow hlt]
    · rw [frameLevel_of_gap hb hpol hle]

end Sys2Proof.Machine
end

section
/-! How far a show is from its end (41_transmit.md R118, R119, R140): a number that no move but reset raises, and the agent
whose move lowers it. -/

namespace Sys2Proof.Machine

/-- The writes that `arm()` has still to make. -/
def ArmWrite.left : ArmWrite → Nat
  | .resetCounter => 5
  | .setSource => 4
  | .setLength => 3
  | .enableDma => 2
  | .enableTimer => 1

/-- The driver's steps from a position in `Draining` on, once `DONE` is set. -/
def DrainWrite.left : DrainWrite → Nat
  | .poll => 5
  | .disableDma => 4
  | .disableTimer => 3
  | .clearDone => 2
  | .returnToIdle => 1

/-- The ticks until `DONE` is set: the rest of the cell, the cells of the bytes left, and the tick that finds none. -/
def ticksLeft (s : State) : Nat :=
  if s.done then 0 else (if s.cnt = 0 then 0 else s.cfg.period - s.cnt) + s.dmaCnt * s.cfg.period + 1

/-- Inside a cell. -/
theorem ticksLeft_of_cnt_ne_zero {s : State} (hd : s.done = false) (hc : s.cnt ≠ 0) :
    ticksLeft s = s.cfg.period - s.cnt + s.dmaCnt * s.cfg.period + 1 := by
  simp [ticksLeft, hd, hc]

/-- At a cell's boundary. -/
theorem ticksLeft_of_cnt_eq_zero {s : State} (hd : s.done = false) (hc : s.cnt = 0) :
    ticksLeft s = s.dmaCnt * s.cfg.period + 1 := by
  simp [ticksLeft, hd, hc]

/-- The moves of the driver and the streamer that the show still needs. -/
def showLeft (s : State) : Nat :=
  match s.txState with
  | .idle => 0
  | .arming w => w.left + (bufLen s.cfg * s.cfg.period + 7)
  | .transmitting => ticksLeft s + 6
  | .draining .poll => ticksLeft s + DrainWrite.left .poll
  | .draining w => w.left

/-- Whose move brings the show on: the streamer's while the driver polls in vain, else the driver's. -/
def turn (s : State) : Move := if s.txState = .draining .poll ∧ s.done = false then .tick else .block

theorem turn_eq_tick_iff {s : State} : turn s = .tick ↔ s.txState = .draining .poll ∧ s.done = false := by
  unfold turn
  split <;> simp_all

theorem turn_of_done {s : State} (h : s.done = true) : turn s = .block := by
  simp [turn, h]

theorem turn_eq_tick_or_block (s : State) : turn s = .tick ∨ turn s = .block := by
  unfold turn
  split
  · exact .inl rfl
  · exact .inr rfl

@[simp] theorem showLeft_advance (s : State) : showLeft s.advance = showLeft s := by
  simp [showLeft, ticksLeft]

@[simp] theorem turn_advance (s : State) : turn s.advance = turn s := by
  simp [turn]

/-- While the driver polls the timer runs. -/
theorem BlockOK.timEn_of_turn {s : State} (h : BlockOK s) (ht : turn s = .tick) : s.timEn = true := by
  obtain ⟨hx, -⟩ := turn_eq_tick_iff.1 ht
  obtain ⟨-, -, -, -, -, -, hdriver⟩ := h
  simp_all [DriverOK]

theorem showLeft_pos {s : State} (h : s.txState ≠ .idle) : 0 < showLeft s := by
  unfold showLeft
  split
  · contradiction
  · omega
  · omega
  · exact Nat.add_pos_right _ (by decide)
  · next w _ _ => cases w <;> decide

/-- The whole of a show, with a cell in progress at most. -/
theorem BlockOK.showLeft_le {s : State} (h : BlockOK s) : showLeft s ≤ (bufLen s.cfg + 1) * s.cfg.period + 11 := by
  have hper := h.period_pos
  obtain ⟨-, -, -, hcnt, -, hleft, -⟩ := h
  have hcells : s.dmaCnt * s.cfg.period ≤ bufLen s.cfg * s.cfg.period := Nat.mul_le_mul_right _ hleft
  have hticks : ticksLeft s ≤ bufLen s.cfg * s.cfg.period + s.cfg.period := by
    unfold ticksLeft
    split
    · exact Nat.zero_le _
    · split <;> omega
  rw [Nat.succ_mul]
  unfold showLeft
  split
  · exact Nat.zero_le _
  · next w _ => cases w <;> simp only [ArmWrite.left] <;> omega
  · omega
  · simp only [DrainWrite.left]
    omega
  · next w _ _ => cases w <;> simp only [DrainWrite.left] <;> omega

/-- While the flag is clear each tick brings it nearer. -/
theorem ticksLeft_tick {s t : State} (hb : BlockOK s) (ht : s.timEn = true) (hd : s.done = false) (h : tick s = .next t) :
    ticksLeft t < ticksLeft s := by
  obtain ⟨hlow, hlt, hper⟩ := paramsOK_pulses hb.1
  obtain ⟨-, -, hdriver⟩ := hb.running ht
  obtain ⟨-, -, -, hcnt, -⟩ := hb
  have hon : s.dmaEn = true := by
    obtain ⟨-, hon⟩ | ⟨-, hon⟩ | ⟨-, hon, -⟩ | ⟨-, -, hset⟩ := hdriver
    · exact hon
    · exact hon
    · exact hon
    · exact absurd (hd.symm.trans hset) Bool.false_ne_true
  obtain ⟨hoff, -⟩ | ⟨-, hc, rfl⟩ | ⟨-, hc, -, -, rfl⟩ | ⟨-, hc, -, hn, -, rfl⟩ := tick_next h
  · exact absurd (hoff.symm.trans ht) Bool.false_ne_true
  · -- inside a cell
    have hc0 : s.cnt ≠ 0 := hc.resolve_right (by simp [hon])
    rw [ticksLeft_of_cnt_ne_zero hd hc0]
    obtain hin | hend := Nat.lt_or_eq_of_le (Nat.succ_le_of_lt hcnt)
    · have hcnt' : (driveTick s).cnt = s.cnt + 1 := Nat.mod_eq_of_lt hin
      rw [ticksLeft_of_cnt_ne_zero (s := driveTick s) hd (by omega), hcnt', driveTick_cfg, driveTick_dmaCnt]
      omega
    · have hcnt' : (driveTick s).cnt = 0 := by rw [driveTick_cnt, ← hend, Nat.mod_self]
      rw [ticksLeft_of_cnt_eq_zero (s := driveTick s) hd hcnt', driveTick_cfg, driveTick_dmaCnt]
      omega
  · -- the flag rises
    rw [ticksLeft_of_cnt_eq_zero hd hc]
    exact Nat.succ_pos _
  · -- a cell is opened
    have hcnt' : (driveTick (s.copyByte (s.readByte s.dmaPtr))).cnt = 1 := by
      rw [driveTick_cnt, State.copyByte_cnt, hc]
      exact Nat.mod_eq_of_lt (by rw [State.copyByte_cfg]; omega)
    have hcell : (s.dmaCnt - 1) * s.cfg.period + s.cfg.period = s.dmaCnt * s.cfg.period := by
      rw [← Nat.succ_mul, Nat.succ_eq_add_one, Nat.sub_add_cancel hn]
    rw [ticksLeft_of_cnt_eq_zero hd hc, ticksLeft_of_cnt_ne_zero (by exact hd) (by omega), hcnt', driveTick_cfg,
      driveTick_dmaCnt, State.copyByte_cfg, State.copyByte_dmaCnt]
    omega

/-- A tick with the timer enabled: it brings a waiting show on, and changes nothing for one whose flag is set. -/
theorem showLeft_tick {s t : State} (hb : BlockOK s) (ht : s.timEn = true) (h : tick s = .next t) :
    showLeft t < showLeft s ∨ showLeft t = showLeft s ∧ turn t = turn s ∧ .tick ≠ turn s := by
  have htx : t.txState = s.txState := by
    obtain ⟨-, rfl⟩ | ⟨-, -, rfl⟩ | ⟨-, -, -, -, rfl⟩ | ⟨-, -, -, -, -, rfl⟩ := tick_next h <;> rfl
  have hkeep : s.done = true → t.done = true := by
    intro hd
    obtain ⟨-, rfl⟩ | ⟨-, -, rfl⟩ | ⟨-, -, -, -, rfl⟩ | ⟨-, -, -, -, -, rfl⟩ := tick_next h
    · exact hd
    · exact hd
    · rfl
    · exact hd
  obtain ⟨-, -, hdriver⟩ := hb.running ht
  cases hd : s.done with
  | true =>
    refine .inr ⟨?_, by rw [turn_of_done hd, turn_of_done (hkeep hd)], by rw [turn_of_done hd]; nofun⟩
    have hticks : ticksLeft t = ticksLeft s := by simp [ticksLeft, hd, hkeep hd]
    unfold showLeft
    rw [htx, hticks]
    obtain ⟨hx, -⟩ | ⟨hx, -⟩ | ⟨hx, -⟩ | ⟨hx, -⟩ := hdriver <;> simp only [hx]
  | false =>
    have hticks := ticksLeft_tick hb ht hd h
    refine .inl ?_
    unfold showLeft
    rw [htx]
    obtain ⟨hx, -⟩ | ⟨hx, -⟩ | ⟨-, -, hset⟩ | ⟨-, -, hset⟩ := hdriver
    · simpa only [hx, Nat.add_lt_add_iff_right] using hticks
    · simpa only [hx, Nat.add_lt_add_iff_right] using hticks
    all_goals exact absurd (hd.symm.trans hset) Bool.false_ne_true

/-- The driver's step brings the show on, unless it polls in vain. -/
theorem showLeft_blockMove {s t : State} (hb : BlockOK s) (hx : s.txState ≠ .idle) (h : blockMove s = .next t) :
    showLeft t < showLeft s ∨ showLeft t = showLeft s ∧ turn t = turn s ∧ .block ≠ turn s := by
  cases hstate : s.txState with
  | idle => exact absurd hstate hx
  | arming w =>
    obtain rfl := Host.Outcome.next.inj ((blockMove_of_arming hstate).symm.trans h)
    refine .inl ?_
    obtain ⟨-, -, -, -, -, -, hdriver⟩ := hb
    simp only [DriverOK, hstate] at hdriver
    obtain ⟨-, hdone, -, -, hcnt, -, hlen⟩ := hdriver
    cases w with
    | enableTimer =>
      simp [showLeft, armStep, hstate, ticksLeft, hdone, hcnt nofun, hlen (.inr rfl), ArmWrite.left]
    | resetCounter | setSource | setLength | enableDma => simp [showLeft, armStep, hstate, ArmWrite.left]
  | transmitting =>
    obtain rfl := Host.Outcome.next.inj ((blockMove_of_transmitting hstate).symm.trans h)
    have hticks : ticksLeft (startDraining s) = ticksLeft s := rfl
    exact .inl (by simp [showLeft, hstate, hticks, DrainWrite.left])
  | draining w =>
    obtain rfl := Host.Outcome.next.inj ((blockMove_of_draining hstate).symm.trans h)
    cases w with
    | poll =>
      cases hd : s.done with
      | true => simp [showLeft, drainStep, pollStep, hd, hstate, DrainWrite.left]
      | false =>
        rw [drainStep, pollStep_of_not_done hd, turn_eq_tick_iff.2 ⟨hstate, hd⟩]
        exact .inr ⟨rfl, rfl, nofun⟩
    | disableDma | disableTimer | clearDone | returnToIdle => simp [showLeft, drainStep, hstate, DrainWrite.left]

/-- No step of a show in progress but reset takes it back, and the move of the agent whose turn it is brings it on; the turn
changes with progress only. -/
theorem showLeft_step {s t : State} (hb : BlockOK s) (hx : s.txState ≠ .idle) (hreset : s.nextMove ≠ .reset)
    (h : step s = .next t) :
    showLeft t < showLeft s ∨ showLeft t = showLeft s ∧ turn t = turn s ∧ s.nextMove ≠ turn s := by
  rw [← showLeft_advance s, ← turn_advance s]
  obtain ⟨-, ⟨hm, rfl⟩ | ⟨hm, hblock⟩ | ⟨hm, htick⟩ | ⟨hm, -⟩⟩ := step_next h
  · -- the host
    refine .inr ⟨by simp [showLeft, ticksLeft], by simp [turn], ?_⟩
    rw [hm]
    obtain hturn | hturn := turn_eq_tick_or_block s.advance <;> rw [hturn] <;> nofun
  · rw [hm]
    exact showLeft_blockMove hb.advance (by simpa using hx) hblock
  · rw [hm]
    cases ht : s.advance.timEn with
    | true => exact showLeft_tick hb.advance ht htick
    | false =>
      obtain rfl := Host.Outcome.next.inj ((tick_of_disabled ht).symm.trans htick)
      refine .inr ⟨rfl, rfl, fun hturn => ?_⟩
      exact Bool.false_ne_true (ht.symm.trans (hb.advance.timEn_of_turn hturn.symm))
  · exact absurd hm hreset

end Sys2Proof.Machine
end

section
/-! A finite stretch of fair rounds ends a show (41_transmit.md R118), and what is then left of it (R115). -/

namespace Sys2Proof.Machine

/-! ## Runs of the machine -/

theorem core_run_succ {s t : State} (k : Nat) (h : step s = .next t) : core.run (k + 1) s = core.run k t := by
  have hcore : core.step s = .next t := h
  simp only [Host.Core.run, hcore]

/-- One run after another. -/
theorem core_run_add {s t u : State} {k j : Nat} (hk : core.run k s = .next t) (hj : core.run j t = .next u) :
    core.run (k + j) s = .next u := by
  induction k generalizing s with
  | zero =>
    obtain rfl := Host.Outcome.next.inj hk
    rwa [Nat.zero_add]
  | succ k ih =>
    cases hs : step s with
    | next v =>
      rw [core_run_succ k hs] at hk
      rw [Nat.succ_add, core_run_succ (k + j) hs]
      exact ih hk
    | fault f =>
      have hfault : core.run (k + 1) s = .fault f := by simp only [Host.Core.run, core, hs]
      cases hfault.symm.trans hk
    | refused f =>
      have hrefused : core.run (k + 1) s = .refused f := by simp only [Host.Core.run, core, hs]
      cases hrefused.symm.trans hk

theorem nextMove_of_cons {s : State} {m : Move} {ms : List Move} (h : s.sched = m :: ms) : s.nextMove = m := by
  simp [State.nextMove, h]

/-- Every move leaves the moves after it. -/
theorem step_sched {s t : State} (h : step s = .next t) : t.sched = s.sched.tail := by
  obtain ⟨-, hm⟩ := moveMade_of_step h
  generalize s.nextMove = m at hm
  cases hm <;> simp

/-! ## A show in progress -/

/-- What a show in progress keeps: the parameters, the buffer, `ERR`, its number, the responses, and what the histories
hold. -/
def ShowKept (s t : State) : Prop :=
  (t.cfg = s.cfg ∧ t.mem = s.mem ∧ t.resets = s.resets)
    ∧ (t.err = s.err ∧ t.showNo = s.showNo ∧ t.responses = s.responses)
    ∧ (StreamOK s → StreamOK t) ∧ (LineOK s → LineOK t)

theorem ShowKept.refl (s : State) : ShowKept s s := ⟨⟨rfl, rfl, rfl⟩, ⟨rfl, rfl, rfl⟩, id, id⟩

theorem ShowKept.trans {s t u : State} (h : ShowKept s t) (h' : ShowKept t u) : ShowKept s u := by
  obtain ⟨⟨hcfg, hmem, hresets⟩, ⟨herr, hshow, hresp⟩, hstream, hline⟩ := h
  obtain ⟨⟨hcfg', hmem', hresets'⟩, ⟨herr', hshow', hresp'⟩, hstream', hline'⟩ := h'
  exact ⟨⟨hcfg'.trans hcfg, hmem'.trans hmem, hresets'.trans hresets⟩,
    ⟨herr'.trans herr, hshow'.trans hshow, hresp'.trans hresp⟩, hstream' ∘ hstream, hline' ∘ hline⟩

/-- Only the return leaves `Draining`. -/
theorem drainStep_txState_ne_idle {s : State} {w : DrainWrite} (hx : s.txState = .draining w) (hw : w ≠ .returnToIdle) :
    (drainStep w s).txState ≠ .idle := by
  cases w with
  | returnToIdle => exact absurd rfl hw
  | poll =>
    simp only [drainStep, pollStep]
    split
    · nofun
    · rw [hx]
      nofun
  | disableDma | disableTimer | clearDone => nofun

/-- A step of a show in progress keeps all that, or is its return. -/
theorem showKept_of_step {s t : State} (hb : BlockOK s) (hx : s.txState ≠ .idle) (hreset : s.nextMove ≠ .reset)
    (h : step s = .next t) :
    (s.txState = .draining .returnToIdle ∧ s.nextMove = .block) ∨ t.txState ≠ .idle ∧ ShowKept s t := by
  obtain ⟨-, hm⟩ := moveMade_of_step h
  have hhist : (StreamOK s → StreamOK t) ∧ (LineOK s → LineOK t) :=
    ⟨fun hs => hs.advance.moveMade hb.advance hm, fun hl => hl.advance.moveMade hb.advance hm⟩
  have hx' : s.advance.txState ≠ .idle := by simpa using hx
  generalize s.nextMove = m at hm hreset
  cases hm with
  | noWord hi | illegal w e hi | writes w i cs hi | rangeError w i index hi | packed w r g b hi | beginShow w hi =>
    exact absurd hi hx'
  | drain w hw =>
    obtain ⟨hne, hsame⟩ | ⟨rfl, -⟩ := drainStep_responses w s.advance
    · exact .inr ⟨drainStep_txState_ne_idle hw hne, ⟨by simp, by simp, by simp⟩,
        ⟨by simp, by simp, by simpa using hsame⟩, hhist⟩
    · exact .inl ⟨by simpa using hw, rfl⟩
  | arm w hw =>
    refine .inr ⟨?_, ⟨by simp, by simp, by simp⟩, ⟨by simp, by simp, by simp⟩, hhist⟩
    cases w <;> nofun
  | startDraining | present | tickOff | drive | raiseDone | beat =>
    exact .inr ⟨by simp [hx], ⟨by simp, by simp, by simp⟩, ⟨by simp, by simp, by simp⟩, hhist⟩
  | reset => exact absurd rfl hreset

/-- After `k` steps the show has all its steps behind it but the return, which comes next. -/
def ReturnsAfter (s : State) (k : Nat) (u : State) : Prop :=
  core.run k s = .next u ∧ BlockOK u ∧ ShowKept s u ∧ u.txState = .draining .returnToIdle ∧ u.nextMove = .block

/-- After `k` steps the show is still in progress. -/
def LastsFor (s : State) (k : Nat) (t : State) : Prop :=
  core.run k s = .next t ∧ BlockOK t ∧ ShowKept s t ∧ t.txState ≠ .idle

/-- Over a stretch of moves without a reset a show comes to its return, or it lasts; then it has come nearer to its end, or
the agent whose turn it is has not moved. -/
theorem returns_or_lasts (ms : List Move) {s : State} {rest : List Move} (hb : BlockOK s) (hx : s.txState ≠ .idle)
    (hsched : s.sched = ms ++ rest) (hreset : .reset ∉ ms) :
    (∃ k u, k < ms.length ∧ ReturnsAfter s k u)
      ∨ ∃ t, LastsFor s ms.length t ∧ t.sched = rest
          ∧ (showLeft t < showLeft s ∨ showLeft t = showLeft s ∧ turn t = turn s ∧ turn s ∉ ms) := by
  induction ms generalizing s with
  | nil => exact .inr ⟨s, ⟨rfl, hb, .refl s, hx⟩, hsched, .inr ⟨rfl, rfl, nofun⟩⟩
  | cons m ms ih =>
    have hm : s.nextMove = m := nextMove_of_cons hsched
    obtain ⟨hm0, hreset'⟩ := not_or.1 (mt List.mem_cons.2 hreset)
    have hnr : s.nextMove ≠ .reset := by rw [hm]; exact Ne.symm hm0
    obtain ⟨t, ht⟩ := hb.step_next_or_fault.resolve_right fun ⟨hidle, _⟩ => hx hidle
    obtain ⟨hret, hblock⟩ | ⟨hx', hkept⟩ := showKept_of_step hb hx hnr ht
    · exact .inl ⟨0, s, Nat.succ_pos _, rfl, hb, .refl s, hret, hblock⟩
    have hb' := everyStepKeepsTheInvariant s t hb ht
    have hsched' : t.sched = ms ++ rest := by rw [step_sched ht, hsched]; rfl
    have hprogress := showLeft_step hb hx hnr ht
    obtain ⟨k, u, hk, hrun, hu⟩ | ⟨u, ⟨hrun, hbu, hkept', hxu⟩, hrest, hleft⟩ := ih hb' hx' hsched' hreset'
    · obtain ⟨hbu, hkept', hend⟩ := hu
      exact .inl ⟨k + 1, u, Nat.succ_lt_succ hk, (core_run_succ k ht).trans hrun, hbu, hkept.trans hkept', hend⟩
    · refine .inr ⟨u, ⟨(core_run_succ _ ht).trans hrun, hbu, hkept.trans hkept', hxu⟩, hrest, ?_⟩
      obtain hlt | ⟨heq, hturn, hne⟩ := hprogress
      · exact .inl (by omega)
      obtain hlt | ⟨heq', hturn', hnot⟩ := hleft
      · exact .inl (by omega)
      · refine .inr ⟨heq'.trans heq, hturn'.trans hturn, ?_⟩
        rw [hm] at hne
        rw [hturn] at hnot
        exact mt List.mem_cons.1 (not_or.2 ⟨hne.symm, hnot⟩)

/-- A fair round holds the move of the agent whose turn it is. -/
theorem FairRound.turn_mem {ms : List Move} (h : FairRound ms) (s : State) : turn s ∈ ms := by
  obtain ⟨htick, hblock, -⟩ := h
  obtain hturn | hturn := turn_eq_tick_or_block s <;> rwa [hturn]

/-- Each round brings the show nearer to its end, so enough rounds bring it to its return. -/
theorem returns_within_rounds (rounds : List (List Move)) {s : State} {rest : List Move} (hb : BlockOK s)
    (hx : s.txState ≠ .idle) (hsched : s.sched = rounds.flatten ++ rest) (hfair : ∀ ms ∈ rounds, FairRound ms)
    (henough : showLeft s ≤ rounds.length) : ∃ k u, k < rounds.flatten.length ∧ ReturnsAfter s k u := by
  induction rounds generalizing s with
  | nil => exact absurd henough (Nat.not_le.2 (showLeft_pos hx))
  | cons ms rounds ih =>
    have hround : FairRound ms := hfair ms (by simp)
    rw [List.flatten_cons, List.append_assoc] at hsched
    rw [List.flatten_cons, List.length_append]
    obtain ⟨k, u, hk, hu⟩ | ⟨t, ⟨hrun, hbt, hkept, hxt⟩, hsched', hleft⟩ := returns_or_lasts ms hb hx hsched hround.2.2
    · exact ⟨k, u, Nat.lt_add_right _ hk, hu⟩
    · have hlt : showLeft t < showLeft s := hleft.resolve_right fun ⟨_, _, hnot⟩ => hnot (hround.turn_mem s)
      rw [List.length_cons] at henough
      obtain ⟨k, u, hk, hrun', hbu, hkept', hend⟩ :=
        ih hbt hxt hsched' (fun ms' h => hfair ms' (List.mem_cons_of_mem _ h)) (by omega)
      exact ⟨ms.length + k, u, Nat.add_lt_add_left hk _, core_run_add hrun hrun', hbu, hkept.trans hkept', hend⟩

/-- Settles O50: the bound is above what any show needs; the return takes one more step. -/
theorem showEndsWithinFairRounds : Obligations.ShowEndsWithinFairRounds := by
  intro s rounds rest hb hsched hfair henough
  by_cases hx : s.txState = .idle
  · exact ⟨0, s, Nat.zero_le _, rfl, hx⟩
  obtain ⟨k, u, hk, hrun, hbu, -, hret, hblock⟩ :=
    returns_within_rounds rounds hb hx hsched hfair (hb.showLeft_le.trans henough)
  exact ⟨k + 1, _, hk, core_run_add hrun (core_run_succ 0 (step_of_return hbu hret hblock)), rfl⟩

/-- Settles O51: the acceptance, the show up to its return, and O47 at the return. -/
theorem showSendsTheBufferAndEnds : Obligations.ShowSendsTheBufferAndEnds := by
  intro s rounds rest hb hs hl hidle hsched hfair henough
  have hb' := hb.beginShow hidle
  obtain ⟨k, u, hk, hrun, hbu, ⟨⟨hcfg, hmem, hresets⟩, ⟨herr, hshow, hresp⟩, hstream, hline⟩, hret, hblock⟩ :=
    returns_within_rounds rounds hb' nofun hsched hfair (hb'.showLeft_le.trans henough)
  have hstep := step_of_return hbu hret hblock
  obtain ⟨t, ht, hx, htim, hdma, hdone, hlow, hanswer, hframe, hsent, hlevels⟩ :=
    showAnsweredHasSentTheBuffer u hbu (hstream (hs.beginShow hidle)) (hline (hl.beginShow hidle)) hret hblock
  have ht' : t = driverReturn u.advance := Host.Outcome.next.inj (ht.symm.trans hstep)
  have htcfg : t.cfg = s.cfg := by rw [ht']; simpa using hcfg
  have htmem : t.mem = s.mem := by rw [ht']; simpa using hmem
  have hread : t.readByte = s.readByte := State.readByte_congr htcfg htmem (by rw [ht']; simpa using hresets)
  have hsame : t.frame = s.frame := by rw [State.frame, State.frame, htcfg, hread]
  rw [htcfg, hread] at hlevels
  refine ⟨_, k + 1, t, rfl, hk, core_run_add hrun (core_run_succ 0 ht), hx, htim, hdma, hdone, hlow, ?_, ?_, ?_, htmem,
    hsame, hsent.trans hsame, hlevels⟩
  · rw [hanswer, hresp]
    rfl
  · rw [ht']
    simpa using herr
  · rw [ht']
    simpa using hshow

end Sys2Proof.Machine
end

section
/-! Runs without end: fair ticks end every show, and without ticks a polling show hangs (41_transmit.md R118). -/

namespace Sys2Proof.Machine

/-- On a fair run the show in progress comes nearer to its end, or the block is in `Idle`. -/
theorem exists_showLeft_lt {r : Nat → State} (hrun : IsRun r) (hfair : FairTicks r) (hb : ∀ n, BlockOK (r n)) (n : Nat) :
    ∃ m, n ≤ m ∧ ((r m).txState = .idle ∨ showLeft (r m) < showLeft (r n)) := by
  by_contra hnone
  have hbusy : ∀ m, n ≤ m → (r m).txState ≠ .idle := fun m hm hi => hnone ⟨m, hm, .inl hi⟩
  have hstuck : ∀ m, n ≤ m → ¬ showLeft (r m) < showLeft (r n) := fun m hm hlt => hnone ⟨m, hm, .inr hlt⟩
  have hnoReset : ∀ m, n ≤ m → (r m).nextMove ≠ .reset := by
    intro m hm hreset
    obtain ⟨-, hmade⟩ := moveMade_of_step (hrun.1 m)
    rw [hreset] at hmade
    refine hbusy (m + 1) (Nat.le_succ_of_le hm) ?_
    generalize r (m + 1) = t at hmade
    cases hmade
    rfl
  -- nothing changes: neither the distance nor whose turn it is
  have hsame : ∀ m, n ≤ m → showLeft (r m) = showLeft (r n) ∧ turn (r m) = turn (r n) := by
    intro m hm
    induction m, hm using Nat.le_induction with
    | base => exact ⟨rfl, rfl⟩
    | succ m hm ih =>
      obtain ⟨hleft, hturn⟩ := ih
      obtain hlt | ⟨heq, hturn', -⟩ := showLeft_step (hb m) (hbusy m hm) (hnoReset m hm) (hrun.1 m)
      · exact absurd (hleft ▸ hlt) (hstuck (m + 1) (Nat.le_succ_of_le hm))
      · exact ⟨heq.trans hleft, hturn'.trans hturn⟩
  -- yet the agent whose turn it is moves at some moment
  obtain ⟨m, hm, hmove⟩ : ∃ m, n ≤ m ∧ (r m).nextMove = turn (r m) := by
    obtain hturn | hturn := turn_eq_tick_or_block (r n)
    · obtain ⟨m, hm, hoff | htick⟩ := hfair n
      · have hon := (hb m).timEn_of_turn ((hsame m hm).2.trans hturn)
        exact absurd (hoff.symm.trans hon) Bool.false_ne_true
      · exact ⟨m, hm, htick.trans ((hsame m hm).2.trans hturn).symm⟩
    · obtain ⟨m, hm, hidle | hblock⟩ := hrun.2 n
      · exact absurd hidle (hbusy m hm)
      · exact ⟨m, hm, hblock.trans ((hsame m hm).2.trans hturn).symm⟩
  obtain hlt | ⟨-, -, hne⟩ := showLeft_step (hb m) (hbusy m hm) (hnoReset m hm) (hrun.1 m)
  · exact hstuck (m + 1) (Nat.le_succ_of_le hm) ((hsame m hm).1 ▸ hlt)
  · exact hne hmove

/-- On a fair run of states of the invariant the block is in `Idle` again and again. -/
theorem exists_idle {r : Nat → State} (hrun : IsRun r) (hfair : FairTicks r) (hb : ∀ n, BlockOK (r n)) (n : Nat) :
    ∃ m, n ≤ m ∧ (r m).txState = .idle := by
  induction hd : showLeft (r n) using Nat.strong_induction_on generalizing n with
  | _ d ih =>
    obtain ⟨m, hm, hidle | hlt⟩ := exists_showLeft_lt hrun hfair hb n
    · exact ⟨m, hm, hidle⟩
    · obtain ⟨m', hm', hidle⟩ := ih (showLeft (r m)) (hd ▸ hlt) m rfl
      exact ⟨m', hm.trans hm', hidle⟩

/-- Settles O60: the invariant holds along the run, and no show comes nearer to its end for ever. -/
theorem showEndsOnEveryFairRun : Obligations.ShowEndsOnEveryFairRun := by
  have hall : ∀ r : Nat → State, IsRun r → BlockOK (r 0) → FairTicks r → ∀ n, ∃ m, n ≤ m ∧ (r m).txState = .idle :=
    fun r hrun hb hfair => exists_idle hrun hfair (hrun.induct hb everyStepKeepsTheInvariant)
  refine ⟨fun r hrun hreset hp hfair => hall r hrun ?_ hfair, hall⟩
  obtain ⟨-, -, -, hinv⟩ := resetStateMeetsTheInvariants.1 (r 0) hreset
  exact (hinv hp).1

/-- While the driver polls in vain, its move and the host's change the held word and the host's list only, and a held word
stays. -/
theorem step_of_polling {s : State} {m : Move} {ms : List Move} (hp : paramsOK s.cfg = true)
    (hx : s.txState = .draining .poll) (hd : s.done = false) (hsched : s.sched = m :: ms) (ht : m ≠ .tick)
    (hr : m ≠ .reset) :
    ∃ h p, step s = .next { s with sched := ms, held := h, program := p } ∧ ∀ w, s.held = some w → h = some w := by
  have hadv : s.advance = { s with sched := ms } := by simp only [State.advance, hsched]
  rw [step_eq_runMove hp, nextMove_of_cons hsched, hadv]
  cases m with
  | host =>
    rw [runMove, State.present]
    cases hw : s.held with
    | none =>
      cases hprogram : s.program with
      | nil => exact ⟨none, [], rfl, nofun⟩
      | cons w ws => exact ⟨some w, ws, rfl, nofun⟩
    | some w => exact ⟨some w, s.program, rfl, fun _ h => h⟩
  | block =>
    rw [runMove, blockMove_of_draining (s := { s with sched := ms }) hx, drainStep, pollStep_of_not_done (by exact hd)]
    exact ⟨s.held, s.program, rfl, fun _ h => h⟩
  | tick => exact absurd rfl ht
  | reset => exact absurd rfl hr

/-- Settles O52: no move of the stretch sets the flag, so each poll is in vain. -/
theorem showHangsWithoutTicks : Obligations.ShowHangsWithoutTicks := by
  intro s ms rest hp hx hd hsched htick hreset
  induction ms generalizing s with
  | nil => exact ⟨s, rfl, by rw [← show s.sched = rest from hsched], fun _ h => h⟩
  | cons m ms ih =>
    obtain ⟨hm, htick'⟩ := not_or.1 (mt List.mem_cons.2 htick)
    obtain ⟨hm', hreset'⟩ := not_or.1 (mt List.mem_cons.2 hreset)
    obtain ⟨h, p, hstep, hheld⟩ := step_of_polling (ms := ms ++ rest) hp hx hd hsched (Ne.symm hm) (Ne.symm hm')
    obtain ⟨t, hrun, hsame, hkeep⟩ :=
      ih { s with sched := ms ++ rest, held := h, program := p } hp hx hd rfl htick' hreset'
    exact ⟨t, (core_run_succ ms.length hstep).trans hrun, hsame, fun w hw => hkeep w (hheld w hw)⟩

end Sys2Proof.Machine
end

section
/-! The contents of the buffer reach only the line and its histories (10_state.md R23): every move of two states that differ
there alone, made side by side. -/

namespace Sys2Proof.Machine

/-- The buffer, and what it reaches: the compare register, the pin and the two histories. -/
structure LineData where
  mem : List Host.Cell
  ccr : Byte
  dout : Bool
  stream : List (Nat × Byte)
  line : List (Nat × Bool)

/-- The state with other line data. -/
def State.withLineData (s : State) (d : LineData) : State :=
  { s with mem := d.mem, ccr := d.ccr, dout := d.dout, stream := d.stream, line := d.line }

/-- Two outcomes are alike: both stop for the same reason, or both go on to states that differ in the line data alone. -/
def Alike (o o' : Result) : Prop :=
  match o, o' with
  | .next t, .next t' => ∃ d, t' = t.withLineData d
  | .fault r, .fault r' => r = r'
  | .refused r, .refused r' => r = r'
  | _, _ => False

theorem advance_withLineData (s : State) (d : LineData) : (s.withLineData d).advance = s.advance.withLineData d := by
  unfold State.advance State.withLineData
  cases s.sched <;> rfl

theorem present_withLineData (s : State) (d : LineData) : (s.withLineData d).present = s.present.withLineData d := by
  cases hw : s.held with
  | some w => rw [State.present_of_held hw, State.present_of_held (s := s.withLineData d) hw]
  | none =>
    cases hp : s.program with
    | nil => rw [State.present_of_no_program hp, State.present_of_no_program (s := s.withLineData d) hp]
    | cons w ws =>
      rw [State.present_of_cons hw hp, State.present_of_cons (s := s.withLineData d) hw hp]
      rfl

/-- The index, the policy and the writes outside decide; the buffer is written only. -/
theorem alike_setColourAt (index : LedIndex) (r g b : Byte) (s : State) (d : LineData) :
    Alike (setColourAt index r g b s) (setColourAt index r g b (s.withLineData d)) := by
  cases hp : s.cfg.rangePolicy with
  | reject =>
    obtain hlt | hle := Nat.lt_or_ge index.toNat s.cfg.n
    · rw [setColourAt_of_lt hlt, setColourAt_of_lt (s := s.withLineData d) hlt]
      exact ⟨{ d with mem := Memory.storeAll s.cfg d.mem (sliceCells s.cfg index.toNat r g b) }, rfl⟩
    · rw [setColourAt_of_reject hle hp, setColourAt_of_reject (s := s.withLineData d) hle hp]
      exact ⟨d, rfl⟩
  | unchecked =>
    have hstop : ∀ n, (s.withLineData d).stopsWithin n = s.stopsWithin n := fun _ => rfl
    have hcfg : (s.withLineData d).cfg = s.cfg := rfl
    rw [setColourAt_of_unchecked hp, setColourAt_of_unchecked (s := s.withLineData d) hp, hstop, hcfg]
    split
    · rfl
    · exact ⟨{ d with
        mem := Memory.storeAll s.cfg d.mem (cellsInside s.cfg (sliceCells s.cfg index.toNat r g b)) }, rfl⟩

theorem alike_exec (i : Instr) (s : State) (d : LineData) : Alike (exec i s) (exec i (s.withLineData d)) := by
  cases i with
  | setColor index r g b => exact alike_setColourAt index r g b s d
  | setColorPacked index p => exact alike_setColourAt index (redOf p) (greenOf p) (blueOf p) s d
  | clear =>
    have hclear : ∀ u, exec .clear u = execClear u := fun _ => rfl
    rw [hclear, hclear, execClear_eq, execClear_eq]
    exact ⟨{ d with mem := Memory.storeAll s.cfg d.mem (clearCells s.cfg) }, rfl⟩
  | pack r g b => exact ⟨d, rfl⟩
  | showFrame => exact ⟨d, rfl⟩

/-- The driver reads `DONE`, not the line data; completion write 2 makes the pin low in both. -/
theorem drainStep_withLineData (w : DrainWrite) (s : State) (d : LineData) :
    ∃ d', drainStep w (s.withLineData d) = (drainStep w s).withLineData d' := by
  cases w with
  | poll =>
    refine ⟨d, ?_⟩
    cases hd : s.done with
    | false => rw [drainStep, drainStep, pollStep_of_not_done hd, pollStep_of_not_done (by exact hd)]
    | true => simp [drainStep, pollStep, State.withLineData, hd]
  | disableTimer => exact ⟨{ d with dout := false }, rfl⟩
  | disableDma | clearDone | returnToIdle => exact ⟨d, rfl⟩

theorem alike_blockMove (s : State) (d : LineData) : Alike (blockMove s) (blockMove (s.withLineData d)) := by
  cases hx : s.txState with
  | idle =>
    cases hw : s.held with
    | none =>
      have hrest : ∀ u : State, u.txState = .idle → u.held = none → blockMove u = .next u := fun u h1 h2 => by
        simp only [blockMove, h1, h2]
      rw [hrest s hx hw, hrest (s.withLineData d) hx hw]
      exact ⟨d, rfl⟩
    | some w =>
      have haccept : ∀ u : State, u.txState = .idle → u.held = some w → blockMove u = acceptWord w u.takeHeld :=
        fun u h1 h2 => by simp only [blockMove, h1, h2]
      rw [haccept s hx hw, haccept (s.withLineData d) hx hw]
      cases hd : decode w with
      | error e =>
        rw [acceptWord_of_decode_error _ hd, acceptWord_of_decode_error _ hd]
        exact ⟨d, rfl⟩
      | ok i =>
        rw [acceptWord_of_decode_ok _ hd, acceptWord_of_decode_ok _ hd]
        exact alike_exec i s.takeHeld d
  | arming w =>
    rw [blockMove_of_arming hx, blockMove_of_arming (s := s.withLineData d) hx]
    cases w <;> exact ⟨d, rfl⟩
  | transmitting =>
    rw [blockMove_of_transmitting hx, blockMove_of_transmitting (s := s.withLineData d) hx]
    exact ⟨d, rfl⟩
  | draining w =>
    rw [blockMove_of_draining hx, blockMove_of_draining (s := s.withLineData d) hx]
    exact drainStep_withLineData w s d

/-- Driving the pin keeps states that differ in the line data alone so. -/
theorem driveTick_withLineData (s : State) (d : LineData) :
    ∃ d', driveTick (s.withLineData d) = (driveTick s).withLineData d' :=
  ⟨{ d with dout := wave d.ccr s.cnt, line := d.line ++ [(s.showNo, wave d.ccr s.cnt)] }, rfl⟩

/-- A beat copies whatever byte each buffer holds, and stops in both or in neither. -/
theorem alike_openCell (s : State) (d : LineData) : Alike (openCell s) (openCell (s.withLineData d)) := by
  cases hd : s.dmaEn with
  | false =>
    rw [openCell_of_disabled hd, openCell_of_disabled (s := s.withLineData d) hd]
    exact ⟨d, rfl⟩
  | true =>
    obtain hn | hn := Nat.eq_zero_or_pos s.dmaCnt
    · rw [openCell_of_dmaCnt_zero hd hn, openCell_of_dmaCnt_zero (s := s.withLineData d) hd hn]
      exact ⟨d, rfl⟩
    · obtain hp | hp := Nat.lt_or_ge s.dmaPtr (bufLen s.cfg)
      · rw [openCell_of_lt_bufLen hd hn hp, openCell_of_lt_bufLen (s := s.withLineData d) hd hn hp]
        exact ⟨{ d with
          ccr := (s.withLineData d).readByte s.dmaPtr
          stream := d.stream ++ [(s.showNo, (s.withLineData d).readByte s.dmaPtr)] }, rfl⟩
      · rw [openCell_of_bufLen_le hd hn hp, openCell_of_bufLen_le (s := s.withLineData d) hd hn hp]
        rfl

theorem alike_tick (s : State) (d : LineData) : Alike (tick s) (tick (s.withLineData d)) := by
  cases ht : s.timEn with
  | false =>
    rw [tick_of_disabled ht, tick_of_disabled (s := s.withLineData d) ht]
    exact ⟨d, rfl⟩
  | true =>
    by_cases hc : s.cnt = 0
    · -- a cell is opened in both
      have hopen := alike_openCell s d
      have htick : ∀ u : State, u.timEn = true → u.cnt = 0 →
          tick u = andThen (openCell u) fun t => .next (driveTick t) := fun u h1 h2 => by simp [tick, h1, h2]
      rw [htick s ht hc, htick (s.withLineData d) ht hc]
      generalize openCell s = o, openCell (s.withLineData d) = o' at hopen
      cases o <;> cases o' <;> try contradiction
      case next.next t t' =>
        obtain ⟨d', rfl⟩ := hopen
        exact driveTick_withLineData t d'
      case fault.fault r r' => exact hopen
      case refused.refused r r' => exact hopen
    · rw [tick_of_cnt_ne_zero ht hc, tick_of_cnt_ne_zero (s := s.withLineData d) ht hc]
      exact driveTick_withLineData s d

theorem alike_step (s : State) (d : LineData) : Alike (step s) (step (s.withLineData d)) := by
  cases hp : paramsOK s.cfg with
  | false =>
    rw [parametersOutsideTheConstraintsAreRefused.2 s hp,
      parametersOutsideTheConstraintsAreRefused.2 (s.withLineData d) hp]
    rfl
  | true =>
    have hmove : (s.withLineData d).nextMove = s.nextMove := rfl
    rw [step_eq_runMove hp, step_eq_runMove (s := s.withLineData d) hp, hmove, advance_withLineData]
    cases s.nextMove with
    | host => exact ⟨d, present_withLineData s.advance d⟩
    | block => exact alike_blockMove s.advance d
    | tick => exact alike_tick s.advance d
    | reset => exact ⟨⟨[], 0x00#8, false, [], []⟩, rfl⟩

/-- Settles O59: no move's choice, stop or response reads the line data. -/
theorem bufferContentsReachOnlyTheLine : Obligations.BufferContentsReachOnlyTheLine := by
  intro s mem ccr dout stream line
  have h : Alike (step s) (step { s with mem := mem, ccr := ccr, dout := dout, stream := stream, line := line }) :=
    alike_step s ⟨mem, ccr, dout, stream, line⟩
  generalize step s = o, step { s with mem := mem, ccr := ccr, dout := dout, stream := stream, line := line } = o' at h
  cases o <;> cases o' <;> try exact h
  case next.next t t' =>
    obtain ⟨d, rfl⟩ := h
    rfl

end Sys2Proof.Machine
end
